-- ==== Sys2Proof/Word.lean ====
section
/-! DEFINITION. The two widths of TaC data (00_scope.md R6, R9): a `Word` is 16 bits, a `Byte` 8 bits. -/

namespace Sys2Proof

/-- 16-bit data and addresses (00_scope.md R9). -/
abbrev Word := BitVec 16

/-- 8-bit data, in memory only (20_memory.md R62). -/
abbrev Byte := BitVec 8

end Sys2Proof
end

