-- ==== Sys2Proof/Syntax.lean ====
section
/-! DEFINITION. The instructions of TaC as syntax: register names, addressing modes and one constructor of `Instr` for
each row of spec/opcode_table.json (41 mnemonics, 168 rows). Operands stand as the assembler notation of 30_encoding.md
R104 writes them: `dsp4` is the byte displacement Dsp4 of R110 and `imm4` the signed value Imm4 of R111, both integers
whose range `WellFormed` checks (log 39). -/

namespace Sys2Proof

/-- What a 4-bit register code designates (10_state.md R27): the general registers G0 to G11, FP, SP (SSP or USP by
FLAG.P), USP and FLAG. -/
inductive Reg where
  | g (i : Fin 12)
  | fp
  | sp
  | usp
  | flag
  deriving DecidableEq, Repr

/-- The addressing modes that have an effective address (30_encoding.md R113). -/
inductive MemMode where
  | drct (dsp : Word)
  | index (dsp : Word) (rx : Reg)
  | fpRlt (dsp4 : Int)
  | indr (rx : Reg)
  | bIndr (rx : Reg)
  deriving DecidableEq, Repr

/-- The eight addressing modes of 30_encoding.md R104. -/
inductive Mode where
  | mem (a : MemMode)
  | imm (imm : Word)
  | reg (rs : Reg)
  | imm4 (imm4 : Int)
  deriving DecidableEq, Repr

/-- The two modes of the jumps and CALL (30_encoding.md R121). -/
inductive Target where
  | drct (dsp : Word)
  | index (dsp : Word) (rx : Reg)
  deriving DecidableEq, Repr

/-- The two modes of IN and OUT (30_encoding.md R121). -/
inductive PortMode where
  | drct (dsp : Word)
  | indr (rx : Reg)
  deriving DecidableEq, Repr

/-- The fifteen instructions `Rd,EA` that admit all eight modes (30_encoding.md R121). -/
inductive TwoOp where
  | ld
  | add
  | sub
  | cmp
  | and
  | or
  | xor
  | adds
  | mul
  | div
  | mod
  | shla
  | shll
  | shra
  | shrl
  deriving DecidableEq, Repr

/-- The fifteen jump conditions, each under its mnemonic (30_encoding.md R124). -/
inductive Cond where
  | jz
  | jc
  | jm
  | jo
  | jgt
  | jge
  | jle
  | jlt
  | jnz
  | jnc
  | jnm
  | jno
  | jhi
  | jls
  | jmp
  deriving DecidableEq, Repr

/-- One instruction: a row of the opcode table with its operands. -/
inductive Instr where
  /- NO (R140) -/
  | no
  /- LD (R141) -/
  | ldDrct (rd : Reg) (dsp : Word)
  | ldIndex (rd : Reg) (dsp : Word) (rx : Reg)
  | ldImm (rd : Reg) (imm : Word)
  | ldFpRlt (rd : Reg) (dsp4 : Int)
  | ldReg (rd : Reg) (rs : Reg)
  | ldImm4 (rd : Reg) (imm4 : Int)
  | ldIndr (rd : Reg) (rx : Reg)
  | ldBIndr (rd : Reg) (rx : Reg)
  /- ST (R142) -/
  | stDrct (rd : Reg) (dsp : Word)
  | stIndex (rd : Reg) (dsp : Word) (rx : Reg)
  | stFpRlt (rd : Reg) (dsp4 : Int)
  | stIndr (rd : Reg) (rx : Reg)
  | stBIndr (rd : Reg) (rx : Reg)
  /- ADD (R151) -/
  | addDrct (rd : Reg) (dsp : Word)
  | addIndex (rd : Reg) (dsp : Word) (rx : Reg)
  | addImm (rd : Reg) (imm : Word)
  | addFpRlt (rd : Reg) (dsp4 : Int)
  | addReg (rd : Reg) (rs : Reg)
  | addImm4 (rd : Reg) (imm4 : Int)
  | addIndr (rd : Reg) (rx : Reg)
  | addBIndr (rd : Reg) (rx : Reg)
  /- SUB (R152) -/
  | subDrct (rd : Reg) (dsp : Word)
  | subIndex (rd : Reg) (dsp : Word) (rx : Reg)
  | subImm (rd : Reg) (imm : Word)
  | subFpRlt (rd : Reg) (dsp4 : Int)
  | subReg (rd : Reg) (rs : Reg)
  | subImm4 (rd : Reg) (imm4 : Int)
  | subIndr (rd : Reg) (rx : Reg)
  | subBIndr (rd : Reg) (rx : Reg)
  /- CMP (R153) -/
  | cmpDrct (rd : Reg) (dsp : Word)
  | cmpIndex (rd : Reg) (dsp : Word) (rx : Reg)
  | cmpImm (rd : Reg) (imm : Word)
  | cmpFpRlt (rd : Reg) (dsp4 : Int)
  | cmpReg (rd : Reg) (rs : Reg)
  | cmpImm4 (rd : Reg) (imm4 : Int)
  | cmpIndr (rd : Reg) (rx : Reg)
  | cmpBIndr (rd : Reg) (rx : Reg)
  /- AND (R154) -/
  | andDrct (rd : Reg) (dsp : Word)
  | andIndex (rd : Reg) (dsp : Word) (rx : Reg)
  | andImm (rd : Reg) (imm : Word)
  | andFpRlt (rd : Reg) (dsp4 : Int)
  | andReg (rd : Reg) (rs : Reg)
  | andImm4 (rd : Reg) (imm4 : Int)
  | andIndr (rd : Reg) (rx : Reg)
  | andBIndr (rd : Reg) (rx : Reg)
  /- OR (R155) -/
  | orDrct (rd : Reg) (dsp : Word)
  | orIndex (rd : Reg) (dsp : Word) (rx : Reg)
  | orImm (rd : Reg) (imm : Word)
  | orFpRlt (rd : Reg) (dsp4 : Int)
  | orReg (rd : Reg) (rs : Reg)
  | orImm4 (rd : Reg) (imm4 : Int)
  | orIndr (rd : Reg) (rx : Reg)
  | orBIndr (rd : Reg) (rx : Reg)
  /- XOR (R156) -/
  | xorDrct (rd : Reg) (dsp : Word)
  | xorIndex (rd : Reg) (dsp : Word) (rx : Reg)
  | xorImm (rd : Reg) (imm : Word)
  | xorFpRlt (rd : Reg) (dsp4 : Int)
  | xorReg (rd : Reg) (rs : Reg)
  | xorImm4 (rd : Reg) (imm4 : Int)
  | xorIndr (rd : Reg) (rx : Reg)
  | xorBIndr (rd : Reg) (rx : Reg)
  /- ADDS (R157) -/
  | addsDrct (rd : Reg) (dsp : Word)
  | addsIndex (rd : Reg) (dsp : Word) (rx : Reg)
  | addsImm (rd : Reg) (imm : Word)
  | addsFpRlt (rd : Reg) (dsp4 : Int)
  | addsReg (rd : Reg) (rs : Reg)
  | addsImm4 (rd : Reg) (imm4 : Int)
  | addsIndr (rd : Reg) (rx : Reg)
  | addsBIndr (rd : Reg) (rx : Reg)
  /- MUL (R158) -/
  | mulDrct (rd : Reg) (dsp : Word)
  | mulIndex (rd : Reg) (dsp : Word) (rx : Reg)
  | mulImm (rd : Reg) (imm : Word)
  | mulFpRlt (rd : Reg) (dsp4 : Int)
  | mulReg (rd : Reg) (rs : Reg)
  | mulImm4 (rd : Reg) (imm4 : Int)
  | mulIndr (rd : Reg) (rx : Reg)
  | mulBIndr (rd : Reg) (rx : Reg)
  /- DIV (R159) -/
  | divDrct (rd : Reg) (dsp : Word)
  | divIndex (rd : Reg) (dsp : Word) (rx : Reg)
  | divImm (rd : Reg) (imm : Word)
  | divFpRlt (rd : Reg) (dsp4 : Int)
  | divReg (rd : Reg) (rs : Reg)
  | divImm4 (rd : Reg) (imm4 : Int)
  | divIndr (rd : Reg) (rx : Reg)
  | divBIndr (rd : Reg) (rx : Reg)
  /- MOD (R160) -/
  | modDrct (rd : Reg) (dsp : Word)
  | modIndex (rd : Reg) (dsp : Word) (rx : Reg)
  | modImm (rd : Reg) (imm : Word)
  | modFpRlt (rd : Reg) (dsp4 : Int)
  | modReg (rd : Reg) (rs : Reg)
  | modImm4 (rd : Reg) (imm4 : Int)
  | modIndr (rd : Reg) (rx : Reg)
  | modBIndr (rd : Reg) (rx : Reg)
  /- SHLA (R171) -/
  | shlaDrct (rd : Reg) (dsp : Word)
  | shlaIndex (rd : Reg) (dsp : Word) (rx : Reg)
  | shlaImm (rd : Reg) (imm : Word)
  | shlaFpRlt (rd : Reg) (dsp4 : Int)
  | shlaReg (rd : Reg) (rs : Reg)
  | shlaImm4 (rd : Reg) (imm4 : Int)
  | shlaIndr (rd : Reg) (rx : Reg)
  | shlaBIndr (rd : Reg) (rx : Reg)
  /- SHLL (R172) -/
  | shllDrct (rd : Reg) (dsp : Word)
  | shllIndex (rd : Reg) (dsp : Word) (rx : Reg)
  | shllImm (rd : Reg) (imm : Word)
  | shllFpRlt (rd : Reg) (dsp4 : Int)
  | shllReg (rd : Reg) (rs : Reg)
  | shllImm4 (rd : Reg) (imm4 : Int)
  | shllIndr (rd : Reg) (rx : Reg)
  | shllBIndr (rd : Reg) (rx : Reg)
  /- SHRA (R173) -/
  | shraDrct (rd : Reg) (dsp : Word)
  | shraIndex (rd : Reg) (dsp : Word) (rx : Reg)
  | shraImm (rd : Reg) (imm : Word)
  | shraFpRlt (rd : Reg) (dsp4 : Int)
  | shraReg (rd : Reg) (rs : Reg)
  | shraImm4 (rd : Reg) (imm4 : Int)
  | shraIndr (rd : Reg) (rx : Reg)
  | shraBIndr (rd : Reg) (rx : Reg)
  /- SHRL (R174) -/
  | shrlDrct (rd : Reg) (dsp : Word)
  | shrlIndex (rd : Reg) (dsp : Word) (rx : Reg)
  | shrlImm (rd : Reg) (imm : Word)
  | shrlFpRlt (rd : Reg) (dsp4 : Int)
  | shrlReg (rd : Reg) (rs : Reg)
  | shrlImm4 (rd : Reg) (imm4 : Int)
  | shrlIndr (rd : Reg) (rx : Reg)
  | shrlBIndr (rd : Reg) (rx : Reg)
  /- JZ (R181) -/
  | jzDrct (dsp : Word)
  | jzIndex (dsp : Word) (rx : Reg)
  /- JC (R182) -/
  | jcDrct (dsp : Word)
  | jcIndex (dsp : Word) (rx : Reg)
  /- JM (R183) -/
  | jmDrct (dsp : Word)
  | jmIndex (dsp : Word) (rx : Reg)
  /- JO (R184) -/
  | joDrct (dsp : Word)
  | joIndex (dsp : Word) (rx : Reg)
  /- JGT (R185) -/
  | jgtDrct (dsp : Word)
  | jgtIndex (dsp : Word) (rx : Reg)
  /- JGE (R186) -/
  | jgeDrct (dsp : Word)
  | jgeIndex (dsp : Word) (rx : Reg)
  /- JLE (R187) -/
  | jleDrct (dsp : Word)
  | jleIndex (dsp : Word) (rx : Reg)
  /- JLT (R188) -/
  | jltDrct (dsp : Word)
  | jltIndex (dsp : Word) (rx : Reg)
  /- JNZ (R189) -/
  | jnzDrct (dsp : Word)
  | jnzIndex (dsp : Word) (rx : Reg)
  /- JNC (R190) -/
  | jncDrct (dsp : Word)
  | jncIndex (dsp : Word) (rx : Reg)
  /- JNM (R191) -/
  | jnmDrct (dsp : Word)
  | jnmIndex (dsp : Word) (rx : Reg)
  /- JNO (R192) -/
  | jnoDrct (dsp : Word)
  | jnoIndex (dsp : Word) (rx : Reg)
  /- JHI (R193) -/
  | jhiDrct (dsp : Word)
  | jhiIndex (dsp : Word) (rx : Reg)
  /- JLS (R194) -/
  | jlsDrct (dsp : Word)
  | jlsIndex (dsp : Word) (rx : Reg)
  /- JMP (R195) -/
  | jmpDrct (dsp : Word)
  | jmpIndex (dsp : Word) (rx : Reg)
  /- CALL (R196) -/
  | callDrct (dsp : Word)
  | callIndex (dsp : Word) (rx : Reg)
  /- IN (R201) -/
  | inDrct (rd : Reg) (dsp : Word)
  | inIndr (rd : Reg) (rx : Reg)
  /- OUT (R202) -/
  | outDrct (rd : Reg) (dsp : Word)
  | outIndr (rd : Reg) (rx : Reg)
  /- PUSH (R210) -/
  | push (rd : Reg)
  /- POP (R211) -/
  | pop (rd : Reg)
  /- RET (R212) -/
  | ret
  /- RETI (R213) -/
  | reti
  /- SVC (R220) -/
  | svc
  /- HALT (R221) -/
  | halt
  deriving DecidableEq, Repr

end Sys2Proof
end

