-- ==== Sys2Proof/WellFormed.lean ====
section
/-! DEFINITION. Which instructions an encoding can express: Dsp4 is an even number from -16 to +14 (30_encoding.md R110)
and Imm4 a number from -8 to +7 (R111). Every other operand is of a type that holds only values the encoding admits. -/

namespace Sys2Proof

/-- 30_encoding.md R110: "Dsp4 is an even number from -16 to +14". -/
def dsp4Ok (d : Int) : Bool := decide (-16 ≤ d) && decide (d ≤ 14) && decide (d % 2 = 0)

/-- 30_encoding.md R111: the 4-bit signed immediate, -8 to +7. -/
def imm4Ok (v : Int) : Bool := decide (-8 ≤ v) && decide (v ≤ 7)

/-- The check on an addressing mode's operands. -/
def Mode.wellFormed : Mode → Bool
  | .mem (.fpRlt d) => dsp4Ok d
  | .imm4 v => imm4Ok v
  | .mem (.drct _) | .mem (.index _ _) | .mem (.indr _) | .mem (.bIndr _) | .imm _ | .reg _ => true

/-- The check on an instruction: its short displacement or short immediate, where it has one, is in range. -/
def Instr.wellFormed : Instr → Bool
  | .ldFpRlt _ dsp4 => dsp4Ok dsp4
  | .ldImm4 _ imm4 => imm4Ok imm4
  | .stFpRlt _ dsp4 => dsp4Ok dsp4
  | .addFpRlt _ dsp4 => dsp4Ok dsp4
  | .addImm4 _ imm4 => imm4Ok imm4
  | .subFpRlt _ dsp4 => dsp4Ok dsp4
  | .subImm4 _ imm4 => imm4Ok imm4
  | .cmpFpRlt _ dsp4 => dsp4Ok dsp4
  | .cmpImm4 _ imm4 => imm4Ok imm4
  | .andFpRlt _ dsp4 => dsp4Ok dsp4
  | .andImm4 _ imm4 => imm4Ok imm4
  | .orFpRlt _ dsp4 => dsp4Ok dsp4
  | .orImm4 _ imm4 => imm4Ok imm4
  | .xorFpRlt _ dsp4 => dsp4Ok dsp4
  | .xorImm4 _ imm4 => imm4Ok imm4
  | .addsFpRlt _ dsp4 => dsp4Ok dsp4
  | .addsImm4 _ imm4 => imm4Ok imm4
  | .mulFpRlt _ dsp4 => dsp4Ok dsp4
  | .mulImm4 _ imm4 => imm4Ok imm4
  | .divFpRlt _ dsp4 => dsp4Ok dsp4
  | .divImm4 _ imm4 => imm4Ok imm4
  | .modFpRlt _ dsp4 => dsp4Ok dsp4
  | .modImm4 _ imm4 => imm4Ok imm4
  | .shlaFpRlt _ dsp4 => dsp4Ok dsp4
  | .shlaImm4 _ imm4 => imm4Ok imm4
  | .shllFpRlt _ dsp4 => dsp4Ok dsp4
  | .shllImm4 _ imm4 => imm4Ok imm4
  | .shraFpRlt _ dsp4 => dsp4Ok dsp4
  | .shraImm4 _ imm4 => imm4Ok imm4
  | .shrlFpRlt _ dsp4 => dsp4Ok dsp4
  | .shrlImm4 _ imm4 => imm4Ok imm4
  | .no | .ldDrct _ _ | .ldIndex _ _ _ | .ldImm _ _
  | .ldReg _ _ | .ldIndr _ _ | .ldBIndr _ _ | .stDrct _ _
  | .stIndex _ _ _ | .stIndr _ _ | .stBIndr _ _ | .addDrct _ _
  | .addIndex _ _ _ | .addImm _ _ | .addReg _ _ | .addIndr _ _
  | .addBIndr _ _ | .subDrct _ _ | .subIndex _ _ _ | .subImm _ _
  | .subReg _ _ | .subIndr _ _ | .subBIndr _ _ | .cmpDrct _ _
  | .cmpIndex _ _ _ | .cmpImm _ _ | .cmpReg _ _ | .cmpIndr _ _
  | .cmpBIndr _ _ | .andDrct _ _ | .andIndex _ _ _ | .andImm _ _
  | .andReg _ _ | .andIndr _ _ | .andBIndr _ _ | .orDrct _ _
  | .orIndex _ _ _ | .orImm _ _ | .orReg _ _ | .orIndr _ _
  | .orBIndr _ _ | .xorDrct _ _ | .xorIndex _ _ _ | .xorImm _ _
  | .xorReg _ _ | .xorIndr _ _ | .xorBIndr _ _ | .addsDrct _ _
  | .addsIndex _ _ _ | .addsImm _ _ | .addsReg _ _ | .addsIndr _ _
  | .addsBIndr _ _ | .mulDrct _ _ | .mulIndex _ _ _ | .mulImm _ _
  | .mulReg _ _ | .mulIndr _ _ | .mulBIndr _ _ | .divDrct _ _
  | .divIndex _ _ _ | .divImm _ _ | .divReg _ _ | .divIndr _ _
  | .divBIndr _ _ | .modDrct _ _ | .modIndex _ _ _ | .modImm _ _
  | .modReg _ _ | .modIndr _ _ | .modBIndr _ _ | .shlaDrct _ _
  | .shlaIndex _ _ _ | .shlaImm _ _ | .shlaReg _ _ | .shlaIndr _ _
  | .shlaBIndr _ _ | .shllDrct _ _ | .shllIndex _ _ _ | .shllImm _ _
  | .shllReg _ _ | .shllIndr _ _ | .shllBIndr _ _ | .shraDrct _ _
  | .shraIndex _ _ _ | .shraImm _ _ | .shraReg _ _ | .shraIndr _ _
  | .shraBIndr _ _ | .shrlDrct _ _ | .shrlIndex _ _ _ | .shrlImm _ _
  | .shrlReg _ _ | .shrlIndr _ _ | .shrlBIndr _ _ | .jzDrct _
  | .jzIndex _ _ | .jcDrct _ | .jcIndex _ _ | .jmDrct _
  | .jmIndex _ _ | .joDrct _ | .joIndex _ _ | .jgtDrct _
  | .jgtIndex _ _ | .jgeDrct _ | .jgeIndex _ _ | .jleDrct _
  | .jleIndex _ _ | .jltDrct _ | .jltIndex _ _ | .jnzDrct _
  | .jnzIndex _ _ | .jncDrct _ | .jncIndex _ _ | .jnmDrct _
  | .jnmIndex _ _ | .jnoDrct _ | .jnoIndex _ _ | .jhiDrct _
  | .jhiIndex _ _ | .jlsDrct _ | .jlsIndex _ _ | .jmpDrct _
  | .jmpIndex _ _ | .callDrct _ | .callIndex _ _ | .inDrct _ _
  | .inIndr _ _ | .outDrct _ _ | .outIndr _ _ | .push _
  | .pop _ | .ret | .reti | .svc
  | .halt => true

end Sys2Proof
end

