-- ==== Sys2Proof/Decode.lean ====
section
/-! DEFINITION. The decoder, total on any bytes, and the encoder (30_encoding.md). A first word that no row of the opcode
map defines is `illegal` (R123); a defined one whose fixed fields differ is `fixedField` (R125). Log 16. -/

namespace Sys2Proof

/-! ### Bytes and words (20_memory.md R63: big-endian, log 1) -/

/-- The word whose byte at the even address is `hi`. -/
def bytesToWord (hi lo : Byte) : Word := hi ++ lo

/-- Bits 15:8, the byte at the even address. -/
def wordHi (w : Word) : Byte := w.extractLsb' 8 8

/-- Bits 7:0, the byte at the odd address. -/
def wordLo (w : Word) : Byte := w.extractLsb' 0 8

/-! ### Register codes -/

/-- The register a 4-bit code designates (10_state.md R27). -/
def Reg.ofCode (c : BitVec 4) : Reg :=
  if h : c.toNat < 12 then .g ⟨c.toNat, h⟩
  else if c = 0xC#4 then .fp
  else if c = 0xD#4 then .sp
  else if c = 0xE#4 then .usp
  else .flag

/-- The 4-bit code of a register (10_state.md R27). -/
def Reg.code : Reg → BitVec 4
  | .g i => BitVec.ofNat 4 i.val
  | .fp => 0xC#4
  | .sp => 0xD#4
  | .usp => 0xE#4
  | .flag => 0xF#4

/-- The condition code of a jump (30_encoding.md R124). -/
def Cond.code : Cond → BitVec 4
  | .jz => 0x0#4
  | .jc => 0x1#4
  | .jm => 0x2#4
  | .jo => 0x3#4
  | .jgt => 0x4#4
  | .jge => 0x5#4
  | .jle => 0x6#4
  | .jlt => 0x7#4
  | .jnz => 0x8#4
  | .jnc => 0x9#4
  | .jnm => 0xA#4
  | .jno => 0xB#4
  | .jhi => 0xC#4
  | .jls => 0xE#4
  | .jmp => 0xF#4

/-- The jump condition of a code; code Dh is blank (30_encoding.md R124). -/
def Cond.ofCode (c : BitVec 4) : Option Cond :=
  match c.toNat with
  | 0x0 => some .jz
  | 0x1 => some .jc
  | 0x2 => some .jm
  | 0x3 => some .jo
  | 0x4 => some .jgt
  | 0x5 => some .jge
  | 0x6 => some .jle
  | 0x7 => some .jlt
  | 0x8 => some .jnz
  | 0x9 => some .jnc
  | 0xA => some .jnm
  | 0xB => some .jno
  | 0xC => some .jhi
  | 0xE => some .jls
  | 0xF => some .jmp
  | _ => none

/-! ### Fields of the first word (30_encoding.md R101) -/

/-- OP, bits 15:8. -/
def opField (w1 : Word) : BitVec 8 := w1.extractLsb' 8 8

/-- Rd, bits 7:4. -/
def rdField (w1 : Word) : BitVec 4 := w1.extractLsb' 4 4

/-- Rx, Rs, D4 or I4, bits 3:0. -/
def rxField (w1 : Word) : BitVec 4 := w1.extractLsb' 0 4

/-- OP[7:3], which selects the instruction (30_encoding.md R102). -/
def opHi (op : BitVec 8) : BitVec 5 := op.extractLsb' 3 5

/-- OP[2:0], which selects the addressing mode (30_encoding.md R102). -/
def opMode (op : BitVec 8) : BitVec 3 := op.extractLsb' 0 3

/-- The first word of an instruction: OP, Rd, Rx, most significant first (30_encoding.md R101). -/
def packFirst (op : BitVec 8) (rd rx : BitVec 4) : Word := op ++ rd ++ rx

/-- Dsp4 of a D4 field: the sign-extended field times 2 (30_encoding.md R110). -/
def dsp4OfField (d4 : BitVec 4) : Int := d4.toInt * 2

/-- D4 of a Dsp4: its half (30_encoding.md R110). -/
def fieldOfDsp4 (dsp4 : Int) : BitVec 4 := BitVec.ofInt 4 (dsp4 / 2)

/-- Imm4 of an I4 field: the sign-extended field (30_encoding.md R111). -/
def imm4OfField (i4 : BitVec 4) : Int := i4.toInt

/-- I4 of an Imm4 (30_encoding.md R111). -/
def fieldOfImm4 (imm4 : Int) : BitVec 4 := BitVec.ofInt 4 imm4

/-! ### Families of rows, by addressing mode -/

/-- One of the eight rows of an instruction `Rd,EA`, by its mode. -/
def byMode (drct : Word → Instr) (index : Word → Reg → Instr) (imm : Word → Instr) (fpRlt : Int → Instr)
    (reg : Reg → Instr) (imm4 : Int → Instr) (indr bIndr : Reg → Instr) : Mode → Instr
  | .mem (.drct dsp) => drct dsp
  | .mem (.index dsp rx) => index dsp rx
  | .imm v => imm v
  | .mem (.fpRlt d) => fpRlt d
  | .reg rs => reg rs
  | .imm4 v => imm4 v
  | .mem (.indr rx) => indr rx
  | .mem (.bIndr rx) => bIndr rx

/-- One of the two rows of a jump or of CALL, by its mode. -/
def byTarget (drct : Word → Instr) (index : Word → Reg → Instr) : Target → Instr
  | .drct dsp => drct dsp
  | .index dsp rx => index dsp rx

/-- The row of a two-operand instruction for a mode: LD, ADD, SUB, CMP, AND, OR, XOR, ADDS, MUL, DIV, MOD, SHLA, SHLL,
SHRA, SHRL, eight rows each (30_encoding.md R121). -/
def mkTwo (op : TwoOp) (rd : Reg) : Mode → Instr :=
  match op with
  | .ld =>
    byMode (.ldDrct rd) (.ldIndex rd) (.ldImm rd) (.ldFpRlt rd) (.ldReg rd) (.ldImm4 rd) (.ldIndr rd)
      (.ldBIndr rd)
  | .add =>
    byMode (.addDrct rd) (.addIndex rd) (.addImm rd) (.addFpRlt rd) (.addReg rd) (.addImm4 rd) (.addIndr rd)
      (.addBIndr rd)
  | .sub =>
    byMode (.subDrct rd) (.subIndex rd) (.subImm rd) (.subFpRlt rd) (.subReg rd) (.subImm4 rd) (.subIndr rd)
      (.subBIndr rd)
  | .cmp =>
    byMode (.cmpDrct rd) (.cmpIndex rd) (.cmpImm rd) (.cmpFpRlt rd) (.cmpReg rd) (.cmpImm4 rd) (.cmpIndr rd)
      (.cmpBIndr rd)
  | .and =>
    byMode (.andDrct rd) (.andIndex rd) (.andImm rd) (.andFpRlt rd) (.andReg rd) (.andImm4 rd) (.andIndr rd)
      (.andBIndr rd)
  | .or =>
    byMode (.orDrct rd) (.orIndex rd) (.orImm rd) (.orFpRlt rd) (.orReg rd) (.orImm4 rd) (.orIndr rd)
      (.orBIndr rd)
  | .xor =>
    byMode (.xorDrct rd) (.xorIndex rd) (.xorImm rd) (.xorFpRlt rd) (.xorReg rd) (.xorImm4 rd) (.xorIndr rd)
      (.xorBIndr rd)
  | .adds =>
    byMode (.addsDrct rd) (.addsIndex rd) (.addsImm rd) (.addsFpRlt rd) (.addsReg rd) (.addsImm4 rd) (.addsIndr rd)
      (.addsBIndr rd)
  | .mul =>
    byMode (.mulDrct rd) (.mulIndex rd) (.mulImm rd) (.mulFpRlt rd) (.mulReg rd) (.mulImm4 rd) (.mulIndr rd)
      (.mulBIndr rd)
  | .div =>
    byMode (.divDrct rd) (.divIndex rd) (.divImm rd) (.divFpRlt rd) (.divReg rd) (.divImm4 rd) (.divIndr rd)
      (.divBIndr rd)
  | .mod =>
    byMode (.modDrct rd) (.modIndex rd) (.modImm rd) (.modFpRlt rd) (.modReg rd) (.modImm4 rd) (.modIndr rd)
      (.modBIndr rd)
  | .shla =>
    byMode (.shlaDrct rd) (.shlaIndex rd) (.shlaImm rd) (.shlaFpRlt rd) (.shlaReg rd) (.shlaImm4 rd) (.shlaIndr rd)
      (.shlaBIndr rd)
  | .shll =>
    byMode (.shllDrct rd) (.shllIndex rd) (.shllImm rd) (.shllFpRlt rd) (.shllReg rd) (.shllImm4 rd) (.shllIndr rd)
      (.shllBIndr rd)
  | .shra =>
    byMode (.shraDrct rd) (.shraIndex rd) (.shraImm rd) (.shraFpRlt rd) (.shraReg rd) (.shraImm4 rd) (.shraIndr rd)
      (.shraBIndr rd)
  | .shrl =>
    byMode (.shrlDrct rd) (.shrlIndex rd) (.shrlImm rd) (.shrlFpRlt rd) (.shrlReg rd) (.shrlImm4 rd) (.shrlIndr rd)
      (.shrlBIndr rd)

/-- The row of ST for a mode with an address (30_encoding.md R121). -/
def mkSt (rd : Reg) : MemMode → Instr
  | .drct dsp => .stDrct rd dsp
  | .index dsp rx => .stIndex rd dsp rx
  | .fpRlt d => .stFpRlt rd d
  | .indr rx => .stIndr rd rx
  | .bIndr rx => .stBIndr rd rx

/-- The row of a jump, by its condition and its mode (30_encoding.md R124). -/
def mkJump (c : Cond) : Target → Instr :=
  match c with
  | .jz => byTarget .jzDrct .jzIndex
  | .jc => byTarget .jcDrct .jcIndex
  | .jm => byTarget .jmDrct .jmIndex
  | .jo => byTarget .joDrct .joIndex
  | .jgt => byTarget .jgtDrct .jgtIndex
  | .jge => byTarget .jgeDrct .jgeIndex
  | .jle => byTarget .jleDrct .jleIndex
  | .jlt => byTarget .jltDrct .jltIndex
  | .jnz => byTarget .jnzDrct .jnzIndex
  | .jnc => byTarget .jncDrct .jncIndex
  | .jnm => byTarget .jnmDrct .jnmIndex
  | .jno => byTarget .jnoDrct .jnoIndex
  | .jhi => byTarget .jhiDrct .jhiIndex
  | .jls => byTarget .jlsDrct .jlsIndex
  | .jmp => byTarget .jmpDrct .jmpIndex

/-- The row of CALL for a mode. -/
def mkCall : Target → Instr := byTarget .callDrct .callIndex

/-- The row of IN for a mode. -/
def mkIn (rd : Reg) : PortMode → Instr
  | .drct dsp => .inDrct rd dsp
  | .indr rx => .inIndr rd rx

/-- The row of OUT for a mode. -/
def mkOut (rd : Reg) : PortMode → Instr
  | .drct dsp => .outDrct rd dsp
  | .indr rx => .outIndr rd rx

/-! ### Decoding -/

/-- Why a first word is no instruction. -/
inductive WordError where
  /-- no row of the opcode map defines it (30_encoding.md R123) -/
  | illegal
  /-- a row's opcode, but a fixed field has another value (30_encoding.md R125) -/
  | fixedField
  deriving DecidableEq, Repr

/-- Why a stream of bytes does not begin with an instruction. -/
inductive DecodeError where
  /-- the first word is no instruction -/
  | word (e : WordError)
  /-- the bytes end before the instruction does -/
  | truncated
  deriving DecidableEq, Repr

/-- `x`, if the fixed field `f` has its value `v` (30_encoding.md R122, R125). -/
def fixed (f v : BitVec 4) (x : Instr) : Except WordError Instr :=
  if f = v then .ok x else .error .fixedField

/-- The eight modes by OP[2:0] (30_encoding.md R104). -/
def decodeMode (m : BitVec 3) (rx : BitVec 4) (w2 : Word) (mk : Mode → Instr) : Except WordError Instr :=
  match m.toNat with
  | 0 => fixed rx 0#4 (mk (.mem (.drct w2)))
  | 1 => .ok (mk (.mem (.index w2 (Reg.ofCode rx))))
  | 2 => fixed rx 0#4 (mk (.imm w2))
  | 3 => .ok (mk (.mem (.fpRlt (dsp4OfField rx))))
  | 4 => .ok (mk (.reg (Reg.ofCode rx)))
  | 5 => .ok (mk (.imm4 (imm4OfField rx)))
  | 6 => .ok (mk (.mem (.indr (Reg.ofCode rx))))
  | _ => .ok (mk (.mem (.bIndr (Reg.ofCode rx))))

/-- The five modes of ST (30_encoding.md R121); OP = 12h, 14h, 15h are undefined (R123 (c)). -/
def decodeMemMode (m : BitVec 3) (rx : BitVec 4) (w2 : Word) (mk : MemMode → Instr) : Except WordError Instr :=
  match m.toNat with
  | 0 => fixed rx 0#4 (mk (.drct w2))
  | 1 => .ok (mk (.index w2 (Reg.ofCode rx)))
  | 3 => .ok (mk (.fpRlt (dsp4OfField rx)))
  | 6 => .ok (mk (.indr (Reg.ofCode rx)))
  | 7 => .ok (mk (.bIndr (Reg.ofCode rx)))
  | _ => .error .illegal

/-- The two modes of the jumps and CALL (30_encoding.md R121, R123 (d)). -/
def decodeTarget (m : BitVec 3) (rx : BitVec 4) (w2 : Word) (mk : Target → Instr) : Except WordError Instr :=
  match m.toNat with
  | 0 => fixed rx 0#4 (mk (.drct w2))
  | 1 => .ok (mk (.index w2 (Reg.ofCode rx)))
  | _ => .error .illegal

/-- The two modes of IN and OUT (30_encoding.md R121, R123 (e)). -/
def decodePort (m : BitVec 3) (rx : BitVec 4) (w2 : Word) (mk : PortMode → Instr) : Except WordError Instr :=
  match m.toNat with
  | 0 => fixed rx 0#4 (mk (.drct w2))
  | 6 => .ok (mk (.indr (Reg.ofCode rx)))
  | _ => .error .illegal

/-- The jumps: the condition is the Rd field (30_encoding.md R124); code Dh is undefined (R123 (i)). -/
def decodeJump (m : BitVec 3) (rd rx : BitVec 4) (w2 : Word) : Except WordError Instr :=
  match Cond.ofCode rd with
  | some c => decodeTarget m rx w2 (mkJump c)
  | none => .error .illegal

/-- CALL: Rd is 0h (30_encoding.md R122). -/
def decodeCall (m : BitVec 3) (rd rx : BitVec 4) (w2 : Word) : Except WordError Instr :=
  match decodeTarget m rx w2 mkCall with
  | .ok i => fixed rd 0#4 i
  | .error e => .error e

/-- An instruction without operands, both fields fixed (30_encoding.md R122). -/
def decodeBare (rd rx rdFixed : BitVec 4) (i : Instr) : Except WordError Instr :=
  match fixed rd rdFixed i with
  | .ok j => fixed rx 0#4 j
  | .error e => .error e

/-- The instruction of a first word `w1` and, where it has one, a second word `w2` (30_encoding.md R117, R120). A one-word
instruction does not depend on `w2`. -/
def decodeWords (w1 w2 : Word) : Except WordError Instr :=
  let hi := opHi (opField w1)
  let m := opMode (opField w1)
  let rd := rdField w1
  let rx := rxField w1
  match hi.toNat with
  | 0x00 => if m = 0#3 then decodeBare rd rx 0#4 .no else .error .illegal
  | 0x01 => decodeMode m rx w2 (mkTwo .ld (Reg.ofCode rd))
  | 0x02 => decodeMemMode m rx w2 (mkSt (Reg.ofCode rd))
  | 0x03 => decodeMode m rx w2 (mkTwo .add (Reg.ofCode rd))
  | 0x04 => decodeMode m rx w2 (mkTwo .sub (Reg.ofCode rd))
  | 0x05 => decodeMode m rx w2 (mkTwo .cmp (Reg.ofCode rd))
  | 0x06 => decodeMode m rx w2 (mkTwo .and (Reg.ofCode rd))
  | 0x07 => decodeMode m rx w2 (mkTwo .or (Reg.ofCode rd))
  | 0x08 => decodeMode m rx w2 (mkTwo .xor (Reg.ofCode rd))
  | 0x09 => decodeMode m rx w2 (mkTwo .adds (Reg.ofCode rd))
  | 0x0A => decodeMode m rx w2 (mkTwo .mul (Reg.ofCode rd))
  | 0x0B => decodeMode m rx w2 (mkTwo .div (Reg.ofCode rd))
  | 0x0C => decodeMode m rx w2 (mkTwo .mod (Reg.ofCode rd))
  | 0x10 => decodeMode m rx w2 (mkTwo .shla (Reg.ofCode rd))
  | 0x11 => decodeMode m rx w2 (mkTwo .shll (Reg.ofCode rd))
  | 0x12 => decodeMode m rx w2 (mkTwo .shra (Reg.ofCode rd))
  | 0x13 => decodeMode m rx w2 (mkTwo .shrl (Reg.ofCode rd))
  | 0x14 => decodeJump m rd rx w2
  | 0x15 => decodeCall m rd rx w2
  | 0x16 => decodePort m rx w2 (mkIn (Reg.ofCode rd))
  | 0x17 => decodePort m rx w2 (mkOut (Reg.ofCode rd))
  | 0x18 =>
    if m = 0#3 then fixed rx 0#4 (.push (Reg.ofCode rd))
    else if m = 4#3 then fixed rx 0#4 (.pop (Reg.ofCode rd))
    else .error .illegal
  | 0x1A =>
    if m = 0#3 then decodeBare rd rx 0#4 .ret
    else if m = 4#3 then decodeBare rd rx 0xF#4 .reti
    else .error .illegal
  | 0x1E => if m = 0#3 then decodeBare rd rx 0#4 .svc else .error .illegal
  | 0x1F => if m = 7#3 then decodeBare rd rx 0#4 .halt else .error .illegal
  | _ => .error .illegal

/-- Whether a first word has a second: its opcode has addressing modes and OP[2:0] is 0, 1 or 2 (30_encoding.md R116). -/
def hasSecondWord (w1 : Word) : Bool :=
  let hi := (opHi (opField w1)).toNat
  ((1 ≤ hi && hi ≤ 12) || (16 ≤ hi && hi ≤ 23)) && (opMode (opField w1)).toNat ≤ 2

/-- The first instruction of a stream of bytes and the bytes after it. -/
def decode : List Byte → Except DecodeError (Instr × List Byte)
  | b0 :: b1 :: rest =>
    let w1 := bytesToWord b0 b1
    match hasSecondWord w1, rest with
    | true, b2 :: b3 :: rest' =>
      match decodeWords w1 (bytesToWord b2 b3) with
      | .ok i => .ok (i, rest')
      | .error e => .error (.word e)
    | true, _ =>
      match decodeWords w1 0#16 with
      | .ok _ => .error .truncated
      | .error e => .error (.word e)
    | false, rest' =>
      match decodeWords w1 0#16 with
      | .ok i => .ok (i, rest')
      | .error e => .error (.word e)
  | _ => .error .truncated

/-- The four bytes, in the order of their addresses, of an instruction numbered as the opcode table numbers bits: the
first word in bits 15:0, the second in bits 31:16, everything above `nbits` zero. -/
def tableBytes (nbits w : Nat) : List Byte :=
  let v := w % 2 ^ nbits
  let w1 := BitVec.ofNat 16 v
  let w2 := BitVec.ofNat 16 (v / 2 ^ 16)
  [wordHi w1, wordLo w1, wordHi w2, wordLo w2]

/-- The instruction the decoder reads from the bits `w` of an opcode-table word. -/
def decodeTableWord (nbits w : Nat) : Option Instr :=
  match decode (tableBytes nbits w) with
  | .ok (i, _) => some i
  | .error _ => none

/-! ### Encoding -/

/-- A one-word instruction. -/
def enc1 (op : BitVec 8) (rd rx : BitVec 4) : List Word := [packFirst op rd rx]

/-- A two-word instruction. -/
def enc2 (op : BitVec 8) (rd rx : BitVec 4) (w2 : Word) : List Word := [packFirst op rd rx, w2]

/-- The words of an instruction (30_encoding.md R104, R120, R122, R124). -/
def encode : Instr → List Word
  | .no => enc1 0x00#8 0x0#4 0#4
  | .ldDrct rd dsp => enc2 0x08#8 rd.code 0#4 dsp
  | .ldIndex rd dsp rx => enc2 0x09#8 rd.code rx.code dsp
  | .ldImm rd imm => enc2 0x0A#8 rd.code 0#4 imm
  | .ldFpRlt rd dsp4 => enc1 0x0B#8 rd.code (fieldOfDsp4 dsp4)
  | .ldReg rd rs => enc1 0x0C#8 rd.code rs.code
  | .ldImm4 rd imm4 => enc1 0x0D#8 rd.code (fieldOfImm4 imm4)
  | .ldIndr rd rx => enc1 0x0E#8 rd.code rx.code
  | .ldBIndr rd rx => enc1 0x0F#8 rd.code rx.code
  | .stDrct rd dsp => enc2 0x10#8 rd.code 0#4 dsp
  | .stIndex rd dsp rx => enc2 0x11#8 rd.code rx.code dsp
  | .stFpRlt rd dsp4 => enc1 0x13#8 rd.code (fieldOfDsp4 dsp4)
  | .stIndr rd rx => enc1 0x16#8 rd.code rx.code
  | .stBIndr rd rx => enc1 0x17#8 rd.code rx.code
  | .addDrct rd dsp => enc2 0x18#8 rd.code 0#4 dsp
  | .addIndex rd dsp rx => enc2 0x19#8 rd.code rx.code dsp
  | .addImm rd imm => enc2 0x1A#8 rd.code 0#4 imm
  | .addFpRlt rd dsp4 => enc1 0x1B#8 rd.code (fieldOfDsp4 dsp4)
  | .addReg rd rs => enc1 0x1C#8 rd.code rs.code
  | .addImm4 rd imm4 => enc1 0x1D#8 rd.code (fieldOfImm4 imm4)
  | .addIndr rd rx => enc1 0x1E#8 rd.code rx.code
  | .addBIndr rd rx => enc1 0x1F#8 rd.code rx.code
  | .subDrct rd dsp => enc2 0x20#8 rd.code 0#4 dsp
  | .subIndex rd dsp rx => enc2 0x21#8 rd.code rx.code dsp
  | .subImm rd imm => enc2 0x22#8 rd.code 0#4 imm
  | .subFpRlt rd dsp4 => enc1 0x23#8 rd.code (fieldOfDsp4 dsp4)
  | .subReg rd rs => enc1 0x24#8 rd.code rs.code
  | .subImm4 rd imm4 => enc1 0x25#8 rd.code (fieldOfImm4 imm4)
  | .subIndr rd rx => enc1 0x26#8 rd.code rx.code
  | .subBIndr rd rx => enc1 0x27#8 rd.code rx.code
  | .cmpDrct rd dsp => enc2 0x28#8 rd.code 0#4 dsp
  | .cmpIndex rd dsp rx => enc2 0x29#8 rd.code rx.code dsp
  | .cmpImm rd imm => enc2 0x2A#8 rd.code 0#4 imm
  | .cmpFpRlt rd dsp4 => enc1 0x2B#8 rd.code (fieldOfDsp4 dsp4)
  | .cmpReg rd rs => enc1 0x2C#8 rd.code rs.code
  | .cmpImm4 rd imm4 => enc1 0x2D#8 rd.code (fieldOfImm4 imm4)
  | .cmpIndr rd rx => enc1 0x2E#8 rd.code rx.code
  | .cmpBIndr rd rx => enc1 0x2F#8 rd.code rx.code
  | .andDrct rd dsp => enc2 0x30#8 rd.code 0#4 dsp
  | .andIndex rd dsp rx => enc2 0x31#8 rd.code rx.code dsp
  | .andImm rd imm => enc2 0x32#8 rd.code 0#4 imm
  | .andFpRlt rd dsp4 => enc1 0x33#8 rd.code (fieldOfDsp4 dsp4)
  | .andReg rd rs => enc1 0x34#8 rd.code rs.code
  | .andImm4 rd imm4 => enc1 0x35#8 rd.code (fieldOfImm4 imm4)
  | .andIndr rd rx => enc1 0x36#8 rd.code rx.code
  | .andBIndr rd rx => enc1 0x37#8 rd.code rx.code
  | .orDrct rd dsp => enc2 0x38#8 rd.code 0#4 dsp
  | .orIndex rd dsp rx => enc2 0x39#8 rd.code rx.code dsp
  | .orImm rd imm => enc2 0x3A#8 rd.code 0#4 imm
  | .orFpRlt rd dsp4 => enc1 0x3B#8 rd.code (fieldOfDsp4 dsp4)
  | .orReg rd rs => enc1 0x3C#8 rd.code rs.code
  | .orImm4 rd imm4 => enc1 0x3D#8 rd.code (fieldOfImm4 imm4)
  | .orIndr rd rx => enc1 0x3E#8 rd.code rx.code
  | .orBIndr rd rx => enc1 0x3F#8 rd.code rx.code
  | .xorDrct rd dsp => enc2 0x40#8 rd.code 0#4 dsp
  | .xorIndex rd dsp rx => enc2 0x41#8 rd.code rx.code dsp
  | .xorImm rd imm => enc2 0x42#8 rd.code 0#4 imm
  | .xorFpRlt rd dsp4 => enc1 0x43#8 rd.code (fieldOfDsp4 dsp4)
  | .xorReg rd rs => enc1 0x44#8 rd.code rs.code
  | .xorImm4 rd imm4 => enc1 0x45#8 rd.code (fieldOfImm4 imm4)
  | .xorIndr rd rx => enc1 0x46#8 rd.code rx.code
  | .xorBIndr rd rx => enc1 0x47#8 rd.code rx.code
  | .addsDrct rd dsp => enc2 0x48#8 rd.code 0#4 dsp
  | .addsIndex rd dsp rx => enc2 0x49#8 rd.code rx.code dsp
  | .addsImm rd imm => enc2 0x4A#8 rd.code 0#4 imm
  | .addsFpRlt rd dsp4 => enc1 0x4B#8 rd.code (fieldOfDsp4 dsp4)
  | .addsReg rd rs => enc1 0x4C#8 rd.code rs.code
  | .addsImm4 rd imm4 => enc1 0x4D#8 rd.code (fieldOfImm4 imm4)
  | .addsIndr rd rx => enc1 0x4E#8 rd.code rx.code
  | .addsBIndr rd rx => enc1 0x4F#8 rd.code rx.code
  | .mulDrct rd dsp => enc2 0x50#8 rd.code 0#4 dsp
  | .mulIndex rd dsp rx => enc2 0x51#8 rd.code rx.code dsp
  | .mulImm rd imm => enc2 0x52#8 rd.code 0#4 imm
  | .mulFpRlt rd dsp4 => enc1 0x53#8 rd.code (fieldOfDsp4 dsp4)
  | .mulReg rd rs => enc1 0x54#8 rd.code rs.code
  | .mulImm4 rd imm4 => enc1 0x55#8 rd.code (fieldOfImm4 imm4)
  | .mulIndr rd rx => enc1 0x56#8 rd.code rx.code
  | .mulBIndr rd rx => enc1 0x57#8 rd.code rx.code
  | .divDrct rd dsp => enc2 0x58#8 rd.code 0#4 dsp
  | .divIndex rd dsp rx => enc2 0x59#8 rd.code rx.code dsp
  | .divImm rd imm => enc2 0x5A#8 rd.code 0#4 imm
  | .divFpRlt rd dsp4 => enc1 0x5B#8 rd.code (fieldOfDsp4 dsp4)
  | .divReg rd rs => enc1 0x5C#8 rd.code rs.code
  | .divImm4 rd imm4 => enc1 0x5D#8 rd.code (fieldOfImm4 imm4)
  | .divIndr rd rx => enc1 0x5E#8 rd.code rx.code
  | .divBIndr rd rx => enc1 0x5F#8 rd.code rx.code
  | .modDrct rd dsp => enc2 0x60#8 rd.code 0#4 dsp
  | .modIndex rd dsp rx => enc2 0x61#8 rd.code rx.code dsp
  | .modImm rd imm => enc2 0x62#8 rd.code 0#4 imm
  | .modFpRlt rd dsp4 => enc1 0x63#8 rd.code (fieldOfDsp4 dsp4)
  | .modReg rd rs => enc1 0x64#8 rd.code rs.code
  | .modImm4 rd imm4 => enc1 0x65#8 rd.code (fieldOfImm4 imm4)
  | .modIndr rd rx => enc1 0x66#8 rd.code rx.code
  | .modBIndr rd rx => enc1 0x67#8 rd.code rx.code
  | .shlaDrct rd dsp => enc2 0x80#8 rd.code 0#4 dsp
  | .shlaIndex rd dsp rx => enc2 0x81#8 rd.code rx.code dsp
  | .shlaImm rd imm => enc2 0x82#8 rd.code 0#4 imm
  | .shlaFpRlt rd dsp4 => enc1 0x83#8 rd.code (fieldOfDsp4 dsp4)
  | .shlaReg rd rs => enc1 0x84#8 rd.code rs.code
  | .shlaImm4 rd imm4 => enc1 0x85#8 rd.code (fieldOfImm4 imm4)
  | .shlaIndr rd rx => enc1 0x86#8 rd.code rx.code
  | .shlaBIndr rd rx => enc1 0x87#8 rd.code rx.code
  | .shllDrct rd dsp => enc2 0x88#8 rd.code 0#4 dsp
  | .shllIndex rd dsp rx => enc2 0x89#8 rd.code rx.code dsp
  | .shllImm rd imm => enc2 0x8A#8 rd.code 0#4 imm
  | .shllFpRlt rd dsp4 => enc1 0x8B#8 rd.code (fieldOfDsp4 dsp4)
  | .shllReg rd rs => enc1 0x8C#8 rd.code rs.code
  | .shllImm4 rd imm4 => enc1 0x8D#8 rd.code (fieldOfImm4 imm4)
  | .shllIndr rd rx => enc1 0x8E#8 rd.code rx.code
  | .shllBIndr rd rx => enc1 0x8F#8 rd.code rx.code
  | .shraDrct rd dsp => enc2 0x90#8 rd.code 0#4 dsp
  | .shraIndex rd dsp rx => enc2 0x91#8 rd.code rx.code dsp
  | .shraImm rd imm => enc2 0x92#8 rd.code 0#4 imm
  | .shraFpRlt rd dsp4 => enc1 0x93#8 rd.code (fieldOfDsp4 dsp4)
  | .shraReg rd rs => enc1 0x94#8 rd.code rs.code
  | .shraImm4 rd imm4 => enc1 0x95#8 rd.code (fieldOfImm4 imm4)
  | .shraIndr rd rx => enc1 0x96#8 rd.code rx.code
  | .shraBIndr rd rx => enc1 0x97#8 rd.code rx.code
  | .shrlDrct rd dsp => enc2 0x98#8 rd.code 0#4 dsp
  | .shrlIndex rd dsp rx => enc2 0x99#8 rd.code rx.code dsp
  | .shrlImm rd imm => enc2 0x9A#8 rd.code 0#4 imm
  | .shrlFpRlt rd dsp4 => enc1 0x9B#8 rd.code (fieldOfDsp4 dsp4)
  | .shrlReg rd rs => enc1 0x9C#8 rd.code rs.code
  | .shrlImm4 rd imm4 => enc1 0x9D#8 rd.code (fieldOfImm4 imm4)
  | .shrlIndr rd rx => enc1 0x9E#8 rd.code rx.code
  | .shrlBIndr rd rx => enc1 0x9F#8 rd.code rx.code
  | .jzDrct dsp => enc2 0xA0#8 Cond.jz.code 0#4 dsp
  | .jzIndex dsp rx => enc2 0xA1#8 Cond.jz.code rx.code dsp
  | .jcDrct dsp => enc2 0xA0#8 Cond.jc.code 0#4 dsp
  | .jcIndex dsp rx => enc2 0xA1#8 Cond.jc.code rx.code dsp
  | .jmDrct dsp => enc2 0xA0#8 Cond.jm.code 0#4 dsp
  | .jmIndex dsp rx => enc2 0xA1#8 Cond.jm.code rx.code dsp
  | .joDrct dsp => enc2 0xA0#8 Cond.jo.code 0#4 dsp
  | .joIndex dsp rx => enc2 0xA1#8 Cond.jo.code rx.code dsp
  | .jgtDrct dsp => enc2 0xA0#8 Cond.jgt.code 0#4 dsp
  | .jgtIndex dsp rx => enc2 0xA1#8 Cond.jgt.code rx.code dsp
  | .jgeDrct dsp => enc2 0xA0#8 Cond.jge.code 0#4 dsp
  | .jgeIndex dsp rx => enc2 0xA1#8 Cond.jge.code rx.code dsp
  | .jleDrct dsp => enc2 0xA0#8 Cond.jle.code 0#4 dsp
  | .jleIndex dsp rx => enc2 0xA1#8 Cond.jle.code rx.code dsp
  | .jltDrct dsp => enc2 0xA0#8 Cond.jlt.code 0#4 dsp
  | .jltIndex dsp rx => enc2 0xA1#8 Cond.jlt.code rx.code dsp
  | .jnzDrct dsp => enc2 0xA0#8 Cond.jnz.code 0#4 dsp
  | .jnzIndex dsp rx => enc2 0xA1#8 Cond.jnz.code rx.code dsp
  | .jncDrct dsp => enc2 0xA0#8 Cond.jnc.code 0#4 dsp
  | .jncIndex dsp rx => enc2 0xA1#8 Cond.jnc.code rx.code dsp
  | .jnmDrct dsp => enc2 0xA0#8 Cond.jnm.code 0#4 dsp
  | .jnmIndex dsp rx => enc2 0xA1#8 Cond.jnm.code rx.code dsp
  | .jnoDrct dsp => enc2 0xA0#8 Cond.jno.code 0#4 dsp
  | .jnoIndex dsp rx => enc2 0xA1#8 Cond.jno.code rx.code dsp
  | .jhiDrct dsp => enc2 0xA0#8 Cond.jhi.code 0#4 dsp
  | .jhiIndex dsp rx => enc2 0xA1#8 Cond.jhi.code rx.code dsp
  | .jlsDrct dsp => enc2 0xA0#8 Cond.jls.code 0#4 dsp
  | .jlsIndex dsp rx => enc2 0xA1#8 Cond.jls.code rx.code dsp
  | .jmpDrct dsp => enc2 0xA0#8 Cond.jmp.code 0#4 dsp
  | .jmpIndex dsp rx => enc2 0xA1#8 Cond.jmp.code rx.code dsp
  | .callDrct dsp => enc2 0xA8#8 0x0#4 0#4 dsp
  | .callIndex dsp rx => enc2 0xA9#8 0x0#4 rx.code dsp
  | .inDrct rd dsp => enc2 0xB0#8 rd.code 0#4 dsp
  | .inIndr rd rx => enc1 0xB6#8 rd.code rx.code
  | .outDrct rd dsp => enc2 0xB8#8 rd.code 0#4 dsp
  | .outIndr rd rx => enc1 0xBE#8 rd.code rx.code
  | .push rd => enc1 0xC0#8 rd.code 0#4
  | .pop rd => enc1 0xC4#8 rd.code 0#4
  | .ret => enc1 0xD0#8 0x0#4 0#4
  | .reti => enc1 0xD4#8 0xF#4 0#4
  | .svc => enc1 0xF0#8 0x0#4 0#4
  | .halt => enc1 0xFF#8 0x0#4 0#4

/-- The bytes of an instruction in memory order. -/
def encodeBytes (i : Instr) : List Byte := (encode i).flatMap fun w => [wordHi w, wordLo w]

end Sys2Proof
end

