-- ==== Sys2Proof/Config.lean ====
section
/-! DEFINITION. What the spec leaves open: the parameters of 00_scope.md R7 and the values it calls `any`. Every constant
here is opaque, with no body: nothing can be proved of its value, so a theorem holds whatever it is. A constant whose
argument `n` is a draw number is applied to `State.draws`, which moves on after each draw: a new value each time. -/

namespace Sys2Proof.Config

/-- V after an instruction for which V is not valid (10_state.md R34), for draw `n`. Log 6. -/
opaque freeV : Nat → Bool

/-- C after an instruction for which C is not valid (10_state.md R35), for draw `n`. Log 6. -/
opaque freeC : Nat → Bool

/-- S after a shift by 16 or more (42_shift.md R170), for draw `n`. Log 9. -/
opaque freeS : Nat → Bool

/-- Z after a shift by 16 or more (42_shift.md R170), for draw `n`. Log 9. -/
opaque freeZ : Nat → Bool

/-- SHIFT_BIG: the result of a shift by 16 or more (42_shift.md R170), for draw `n`. Log 9. -/
opaque shiftBig : Nat → Word

/-- DIVMOD: quotient and remainder where an operand is above 7FFFh (41_arithmetic_logic.md R159, R160). Log 7. -/
opaque divmod : Word → Word → Word × Word

/-- The I/O oracle: the answer of draw `n` to a read of row `a` (20_memory.md R74). Log 22. -/
opaque ioAnswer : Nat → BitVec 8 → Word

/-- The unspecified contents of a RAM byte nothing has written (10_state.md R46). Log 28. -/
opaque ramByte : Word → Byte

/-- IPL_IMAGE, its bytes: what the IPL ROM holds at an address of its region (20_memory.md R78). Log 25. -/
opaque iplByte : Word → Byte

/-- IPL_IMAGE, its base address: open but for the region being E000h to FFDFh at least (20_memory.md R78). Log 25. -/
opaque iplBase : Fin 0xE001

/-- IPL_IMAGE, where it ends: how many of the 32 bytes of the vector table the ROM covers, from FFE0h up. 20_memory.md R78
leaves open whether it covers them. Log 25. -/
opaque iplVectorBytes : Fin 33

/-- VEC_PRIV as an entry number: an even address in FFE0h to FFFCh, its cell lost (spec decision D29). Log 27. -/
opaque vecPrivSlot : Fin 15

/-- Which of the four lost cells FFE6h to FFECh serves RN4020 transmit (0), FT232RL receive (1), FT232RL transmit (2) and
TeC receive (3): 60_exceptions.md R240 says they are these and not which is which. Log 27. -/
opaque lostSerialSlot : Fin 4 → Fin 4

end Sys2Proof.Config
end

