-- ==== Sys2Proof/Machine/State.lean ====
section
/-! DEFINITION. The state of TaC (10_state.md): the CPU registers, FLAG, memory, the MMU and TLB registers, the device
registers a program can write, and the environment's supply of interrupt requests; why a step can stop; and the state
after reset. INVENTORY.md lists every field with the rule that names it. -/

namespace Sys2Proof.Machine

/-- FLAG (10_state.md R30). The upper eight bits are hardwired zero and the lower eight all have names, so the register is
its eight named bits; `Flag.toWord` and `Flag.ofWord` (Flags.lean) give its layout as a word. -/
structure Flag where
  /-- bit 7, interrupt enable -/
  e : Bool
  /-- bit 6, privileged mode -/
  p : Bool
  /-- bit 5, I/O privileged mode -/
  i : Bool
  /-- bit 4, user defined, one bit of storage (R33) -/
  u : Bool
  /-- bit 3, overflow (R34) -/
  v : Bool
  /-- bit 2, carry (R35) -/
  c : Bool
  /-- bit 1, sign (R36) -/
  s : Bool
  /-- bit 0, zero (R36) -/
  z : Bool
  deriving DecidableEq, Repr

/-- The sources of interrupts (60_exceptions.md R240): the devices with an interrupt-enable bit, and the entries 9 to 14 of
the vector table, whose cells are lost (log 27). -/
inductive IntSource where
  | timer0
  | timer1
  | rn4020Rx
  | rn4020Tx
  | ft232rlRx
  | ft232rlTx
  | tecRx
  | tecTx
  | microSd
  | unnamed (k : Fin 6)
  deriving DecidableEq, Repr

/-- What the environment supplies at one instruction boundary (10_state.md R42, 60_exceptions.md R242): the set of pending
sources, and the one of them it picks, or none. -/
structure Boundary where
  pending : List IntSource
  pick : Option IntSource
  deriving DecidableEq, Repr

/-- One output event (20_memory.md R75): the I/O row written and the word that reaches the device. -/
structure IoEvent where
  row : BitVec 8
  value : Word
  deriving DecidableEq, Repr

/-- One TLB entry (20_memory.md R83). Bits 14 and 13 are undefined: ignored on a write and free on a read. -/
structure TlbEntry where
  /-- bits 23:16, page number -/
  page : Byte
  /-- bit 15 -/
  valid : Bool
  /-- bit 12 -/
  reference : Bool
  /-- bit 11 -/
  dirty : Bool
  /-- bit 10 -/
  read : Bool
  /-- bit 9 -/
  write : Bool
  /-- bit 8 -/
  execute : Bool
  /-- bits 7:0, frame number -/
  frame : Byte
  deriving DecidableEq, Repr

/-- The device registers a program can write, each holding the value last written (60_exceptions.md R260 to R272, log 34).
What a device does with them is behind the I/O oracle (20_memory.md R74, R75). -/
structure Devices where
  /-- row 00h -/
  timer0Period : Word
  /-- row 02h: bit 15 interrupt enable, bit 0 start -/
  timer0Control : Word
  /-- row 04h -/
  timer1Period : Word
  /-- row 06h: bit 15 interrupt enable, bit 0 start -/
  timer1Control : Word
  /-- row 08h -/
  ft232rlData : Byte
  /-- row 0Ah: bit 7 transmitter, bit 6 receiver interrupt enable -/
  ft232rlControl : Byte
  /-- row 0Ch -/
  tecData : Byte
  /-- row 0Eh: bit 7 transmitter, bit 6 receiver interrupt enable -/
  tecControl : Byte
  /-- row 10h: bit 7 interrupt enable; an OUT with bit 2, 1 or 0 set is refused -/
  usdControl : Byte
  /-- row 12h -/
  usdMemAddr : Word
  /-- row 14h -/
  usdBlkAddrH : Word
  /-- row 16h -/
  usdBlkAddrL : Word
  /-- row 18h -/
  ioPort : Byte
  /-- row 1Ah -/
  adcReference : Byte
  /-- row 1Ch -/
  outputPortHi : Byte
  /-- row 20h -/
  spiData : Byte
  /-- row 22h -/
  spiSclk : Byte
  /-- row 24h -/
  pioMask : Byte
  /-- row 26h -/
  pioXor : Byte
  /-- row 28h -/
  rn4020Data : Byte
  /-- row 2Ah: bit 7 transmitter, bit 6 receiver interrupt enable -/
  rn4020Control : Byte
  /-- row 2Ch: bits F, H, C, S -/
  rn4020Cmd : BitVec 4
  /-- the model's own bit: row 2Ch has been written since reset (log 32) -/
  rn4020CmdWritten : Bool
  /-- row 2Eh, not affected by reset -/
  rn4020Ram : Byte
  /-- row 32h, TeC console data switches -/
  tecDataSw : Byte
  /-- row 34h, TeC console function switches A to H -/
  tecFunctionSw : Byte
  /-- row 36h, TeC console operating bits I to L -/
  tecOperation : Byte
  /-- row F8h, console data register -/
  consoleData : Word
  deriving DecidableEq, Repr

/-- The memory: (address, byte) pairs in strictly rising order of address. A listed byte has been written; an unlisted one
has no value of its own, and the machine reads it as unspecified RAM (log 28). `Memory.wf` (Ops.lean) is the form. -/
abbrev Memory := List Host.Cell

/-- The state of the machine. -/
structure State where
  /-- G0 to G11 (10_state.md R20) -/
  g : Vector Word 12
  /-- FP, register G12 (R21) -/
  fp : Word
  /-- the system stack pointer (R22) -/
  ssp : Word
  /-- the user stack pointer (R22) -/
  usp : Word
  /-- the program counter (R25) -/
  pc : Word
  /-- FLAG (R30) -/
  flag : Flag
  /-- the CPU has executed HALT (R41) -/
  halted : Bool
  /-- the memory space (R40) -/
  mem : Memory
  /-- the IPL ROM is visible (R43, 20_memory.md R78) -/
  iplAttached : Bool
  /-- bit 0 last written to port A2h (20_memory.md R81) -/
  mmuEnable : Bool
  /-- violation address, read at A2h (R81) -/
  violationAddr : Word
  /-- bit 1 of A4h (R81) -/
  badAddr : Bool
  /-- bit 0 of A4h (R81) -/
  memVio : Bool
  /-- page-table register, written at A6h (R80) -/
  pageTable : Word
  /-- page number, read at A6h (R80) -/
  pageNumber : Word
  /-- the eight TLB entries (R82) -/
  tlb : Vector TlbEntry 8
  /-- device registers (60_exceptions.md R262) -/
  dev : Devices
  /-- output events, in program order (20_memory.md R75) -/
  outputs : List IoEvent
  /-- what the environment supplies at the coming instruction boundaries, the nearest first; where the list ends, nothing
  is pending (10_state.md R42, log 14) -/
  interrupts : List Boundary
  /-- the model's own: how many free values have been drawn (log 36) -/
  draws : Nat
  deriving DecidableEq, Repr

/-- Why the machine stops. -/
inductive Fault where
  /-- A 16-bit access at the odd address `addr`: an operand, the stack, an instruction fetch or a vector fetch
  (20_memory.md R67, 60_exceptions.md R236). Raised by `readWord` and `writeWord`. Safe: the spec says the hardware may do
  anything here. -/
  | addressFault (addr : Word)
  /-- DIV or MOD by 0000h at `pc` (60_exceptions.md R233). Raised by `quotient` and `remainder`. Safe: Rd and FLAG are those
  of the state the step began in. -/
  | zeroDivide (pc : Word)
  /-- A first word no row of the opcode map defines (60_exceptions.md R234). Raised by `fetch`. Safe. -/
  | illegalInstruction (w1 : Word)
  /-- The CPU is stopped after HALT and has no further step (10_state.md R41, 93_implementation_defined.md U25). Raised by
  `step` only. Not an error of the program: HALT itself completes. Safe. -/
  | halted
  deriving DecidableEq, Repr

/-- Why the model gives a step no meaning (60_exceptions.md R237). All are safe: nothing is claimed of the hardware. -/
inductive Refusal where
  /-- An instruction without a meaning in this model. No arm of `exec` answers it. Safe. -/
  | notModelled (mnemonic : String)
  /-- A defined opcode whose fixed field has another value (30_encoding.md R125). Raised by `fetch`. Safe. -/
  | fixedField (w1 : Word)
  /-- A flag-changing instruction other than CMP with Rd = FLAG (10_state.md R37). Raised by `twoOperand`. Safe. -/
  | flagDestination
  /-- PUSH or POP of the stack pointer in use (45_stack_return.md R210, R211). Raised by PUSH and POP. Safe. -/
  | stackPointerOperand
  /-- An I/O address above 00FFh or odd (20_memory.md R73). Raised by IN and OUT. Safe. -/
  | ioAddress (addr : Word)
  /-- A write to an address that shows the IPL ROM (20_memory.md R65). Raised by `writeByte`. Safe. -/
  | romWrite (addr : Word)
  /-- The MMU is enabled, or an OUT would enable it (20_memory.md R85). Raised by `step`, `translate` and `ioWrite`. Safe. -/
  | mmuEnabled
  /-- An OUT that starts a microSD operation (20_memory.md R92). Raised by `ioWrite`. Safe. -/
  | microSdStart
  /-- An OUT to A0h with bit 0 clear (20_memory.md R79). Raised by `ioWrite`. Safe. -/
  | iplDetachBitClear
  deriving DecidableEq, Repr

/-- The device registers after reset: RN4020-Cmd is 0001b (10_state.md R45 (c)); the rest is unspecified and zero by
DESIGN CHOICE (log 18). -/
def Devices.reset : Devices where
  timer0Period := 0
  timer0Control := 0
  timer1Period := 0
  timer1Control := 0
  ft232rlData := 0
  ft232rlControl := 0
  tecData := 0
  tecControl := 0
  usdControl := 0
  usdMemAddr := 0
  usdBlkAddrH := 0
  usdBlkAddrL := 0
  ioPort := 0
  adcReference := 0
  outputPortHi := 0
  spiData := 0
  spiSclk := 0
  pioMask := 0
  pioXor := 0
  rn4020Data := 0
  rn4020Control := 0
  rn4020Cmd := 1
  rn4020CmdWritten := false
  rn4020Ram := 0
  tecDataSw := 0
  tecFunctionSw := 0
  tecOperation := 0
  consoleData := 0

/-- A TLB entry after reset: unspecified, zero by DESIGN CHOICE (log 18). -/
def TlbEntry.reset : TlbEntry where
  page := 0
  valid := false
  reference := false
  dirty := false
  read := false
  write := false
  execute := false
  frame := 0

/-- FLAG after reset: P = 1 and E = 0 (10_state.md R46, log 17); the others unspecified and 0 by DESIGN CHOICE (log 18). -/
def Flag.reset : Flag where
  e := false
  p := true
  i := false
  u := false
  v := false
  c := false
  s := false
  z := false

/-- The machine right after reset (10_state.md R46): P = 1, E = 0, not halted, IPL attached, MMU off, RN4020-Cmd 0001b.
PC is E000h (PRESUMED, log 19). Every register the spec leaves unspecified is zero (DESIGN CHOICE, log 18). -/
def State.reset : State where
  g := Vector.replicate 12 0
  fp := 0
  ssp := 0
  usp := 0
  pc := 0xE000
  flag := Flag.reset
  halted := false
  mem := []
  iplAttached := true
  mmuEnable := false
  violationAddr := 0
  badAddr := false
  memVio := false
  pageTable := 0
  pageNumber := 0
  tlb := Vector.replicate 8 TlbEntry.reset
  dev := Devices.reset
  outputs := []
  interrupts := []
  draws := 0

/-- A reset of a machine that has run: the state after reset, but for RN4020-RAM, which reset does not affect
(10_state.md R45 (b), 60_exceptions.md R267). -/
def State.resetAgain (s : State) : State :=
  { State.reset with dev := { Devices.reset with rn4020Ram := s.dev.rn4020Ram } }

end Sys2Proof.Machine
end

