-- ==== Sys2Proof/Machine/Flags.lean ====
section
/-! DEFINITION. FLAG as a word, the masked write of FLAG, and every flag computation (10_state.md R30 to R36,
41_arithmetic_logic.md R150 to R153, 42_shift.md R170). -/

namespace Sys2Proof.Machine

/-- FLAG as a word: 00000000b, E, P, I, U, V, C, S, Z (10_state.md R31). -/
def Flag.toWord (f : Flag) : Word :=
  0#8 ++ BitVec.ofBool f.e ++ BitVec.ofBool f.p ++ BitVec.ofBool f.i ++ BitVec.ofBool f.u ++
    BitVec.ofBool f.v ++ BitVec.ofBool f.c ++ BitVec.ofBool f.s ++ BitVec.ofBool f.z

/-- The eight bits of a word; bits 15:8 are ignored (10_state.md R32, log 11). -/
def Flag.ofWord (w : Word) : Flag where
  e := w.getLsbD 7
  p := w.getLsbD 6
  i := w.getLsbD 5
  u := w.getLsbD 4
  v := w.getLsbD 3
  c := w.getLsbD 2
  s := w.getLsbD 1
  z := w.getLsbD 0

/-- WriteFLAG (10_state.md R32): all eight bits in privileged mode; in user mode E, P and I keep their values (log 11). -/
def Flag.write (f : Flag) (v : Word) : Flag :=
  if f.p then Flag.ofWord v
  else { Flag.ofWord v with e := f.e, p := f.p, i := f.i }

/-- SetZS (41_arithmetic_logic.md R150). -/
def Flag.setZS (f : Flag) (r : Word) : Flag :=
  { f with z := decide (r = 0#16), s := r.getLsbD 15 }

/-- The flags of ADD (41_arithmetic_logic.md R151, log 29): C is the carry out of bit 15, V the two's-complement overflow. -/
def Flag.add (f : Flag) (a b : Word) : Flag :=
  let r := a + b
  let overflow := a.getLsbD 15 == b.getLsbD 15 && r.getLsbD 15 != a.getLsbD 15
  { f.setZS r with c := decide (65536 ≤ a.toNat + b.toNat), v := overflow }

/-- The flags of SUB and CMP (41_arithmetic_logic.md R152, R153, log 29): C is the borrow, V the two's-complement overflow. -/
def Flag.sub (f : Flag) (a b : Word) : Flag :=
  let r := a - b
  let overflow := a.getLsbD 15 != b.getLsbD 15 && r.getLsbD 15 != a.getLsbD 15
  { f.setZS r with c := decide (a.toNat < b.toNat), v := overflow }

/-- The flags of an instruction for which neither V nor C is valid (41_arithmetic_logic.md R154): S and Z from the result,
V and C free (log 6). -/
def Flag.logic (f : Flag) (draw : Nat) (r : Word) : Flag :=
  { f.setZS r with v := Config.freeV draw, c := Config.freeC draw }

/-- The flags of a shift by `n` < 16 (42_shift.md R170): S and Z from the result, C the bit shifted out if the count is 1
and free otherwise (log 30), V free. -/
def Flag.shift (f : Flag) (draw : Nat) (n : Nat) (out : Bool) (r : Word) : Flag :=
  { f.setZS r with v := Config.freeV draw, c := if n = 1 then out else Config.freeC draw }

/-- The flags of a shift by 16 or more: V, C, S and Z all free (42_shift.md R170, log 9). -/
def Flag.shiftBig (f : Flag) (draw : Nat) : Flag :=
  { f with v := Config.freeV draw, c := Config.freeC draw, s := Config.freeS draw, z := Config.freeZ draw }

/-- The condition a jump tests (43_jump_call.md R181 to R195). -/
def Flag.cond (f : Flag) : Cond → Bool
  | .jz => f.z
  | .jc => f.c
  | .jm => f.s
  | .jo => f.v
  | .jgt => !(f.z || (f.s ^^ f.v))
  | .jge => !(f.s ^^ f.v)
  | .jle => f.z || (f.s ^^ f.v)
  | .jlt => f.s ^^ f.v
  | .jnz => !f.z
  | .jnc => !f.c
  | .jnm => !f.s
  | .jno => !f.v
  | .jhi => !(f.z || f.c)
  | .jls => f.z || f.c
  | .jmp => true

end Sys2Proof.Machine
end

