-- ==== Sys2Proof/Machine/Ops.lean ====
section
/-! DEFINITION. The named operations over memory and registers that every instruction's meaning is made of: memory
(20_memory.md R64 to R67), the register file (10_state.md R27, R28), the stack (20_memory.md R70, R71), taking a trap and
returning from one (60_exceptions.md R245, R250), and interrupts at an instruction boundary (R242). -/

namespace Sys2Proof.Machine

/-- What a meaning answers. -/
abbrev Result := Host.Outcome State Fault Refusal

/-- Why an operation stops: a fault or a refusal. -/
inductive Stop where
  | fault (f : Fault)
  | refusal (r : Refusal)
  deriving DecidableEq, Repr

/-- The answer of an operation that may stop. -/
abbrev Access (α : Type) := Except Stop α

/-- The outcome of a step whose operations have all been done; a stop carries no state (log 40). -/
def finish : Access State → Result
  | .ok s => .next s
  | .error (.fault f) => .fault f
  | .error (.refusal r) => .refused r

/-! ### The list of written bytes -/

/-- The byte written last at `a`, if any. -/
def Memory.lookup : Memory → Nat → Option Byte
  | [], _ => none
  | (k, b) :: rest, a => if k = a then some b else Memory.lookup rest a

/-- The memory after writing `b` at `a`, its addresses still strictly rising. -/
def Memory.store : Memory → Nat → Byte → Memory
  | [], a, b => [(a, b)]
  | (k, c) :: rest, a, b =>
    if a < k then (a, b) :: (k, c) :: rest
    else if a = k then (a, b) :: rest
    else (k, c) :: Memory.store rest a b

/-- The addresses rise strictly, from `lo` on, and are addresses of the memory space. -/
def Memory.wfFrom : Nat → Memory → Bool
  | _, [] => true
  | lo, (k, _) :: rest => decide (lo ≤ k) && decide (k < 65536) && Memory.wfFrom (k + 1) rest

/-- The canonical form: addresses of the 64 KiB space (20_memory.md R60), strictly rising. An unlisted address has no
value, so no entry can equal what an unlisted address reads as. -/
def Memory.wf (m : Memory) : Bool := Memory.wfFrom 0 m

/-! ### The memory space -/

/-- Whether an address shows the IPL ROM: while attached, the region of IPL_IMAGE, from its base address on (20_memory.md
R78, log 25). -/
def inIplRom (s : State) (a : Word) : Bool :=
  s.iplAttached && decide (Config.iplBase.val ≤ a.toNat) && decide (a.toNat < 0xFFE0 + Config.iplVectorBytes.val)

/-- Phys: the byte an address decodes to, ROM or RAM (20_memory.md R64, R76). A RAM byte nothing has written holds an
unspecified value (10_state.md R46, log 28). -/
def physByte (s : State) (a : Word) : Byte :=
  if inIplRom s a then Config.iplByte a
  else (Memory.lookup s.mem a.toNat).getD (Config.ramByte a)

/-- The word at `a` as the machine's bytes have it, high byte first (20_memory.md R63). -/
def physWord (s : State) (a : Word) : Word := bytesToWord (physByte s a) (physByte s (a + 1#16))

/-- T, address translation: the identity while the MMU is disabled; refused while it is enabled (20_memory.md R85, log 24). -/
def translate (s : State) (a : Word) : Access Word :=
  if s.mmuEnable then .error (.refusal .mmuEnabled) else .ok a

/-- MemRead(a, 1) (20_memory.md R64). -/
def readByte (s : State) (a : Word) : Access Byte :=
  match translate s a with
  | .ok p => .ok (physByte s p)
  | .error e => .error e

/-- Whether an address is odd (20_memory.md R67). -/
def isOdd (a : Word) : Bool := a.getLsbD 0

/-- MemRead(a, 2): a fault at an odd address (20_memory.md R64, R67, log 2). -/
def readWord (s : State) (a : Word) : Access Word :=
  if isOdd a then .error (.fault (.addressFault a))
  else
    match readByte s a, readByte s (a + 1#16) with
    | .ok hi, .ok lo => .ok (bytesToWord hi lo)
    | .error e, _ => .error e
    | .ok _, .error e => .error e

/-- MemWrite(a, 1, b): refused where the address shows the IPL ROM (20_memory.md R65, log 25). -/
def writeByte (s : State) (a : Word) (b : Byte) : Access State :=
  match translate s a with
  | .ok p =>
    if inIplRom s p then .error (.refusal (.romWrite p))
    else .ok { s with mem := Memory.store s.mem p.toNat b }
  | .error e => .error e

/-- MemWrite(a, 2, w): a fault at an odd address; the high byte goes to `a` (20_memory.md R65, R67). -/
def writeWord (s : State) (a w : Word) : Access State :=
  if isOdd a then .error (.fault (.addressFault a))
  else
    match writeByte s a (wordHi w) with
    | .ok t => writeByte t (a + 1#16) (wordLo w)
    | .error e => .error e

/-! ### The register file -/

/-- SPsel: SSP in privileged mode, USP in user mode (10_state.md R23). -/
def stackPointer (s : State) : Word := if s.flag.p then s.ssp else s.usp

/-- The write of SPsel (10_state.md R23). -/
def setStackPointer (s : State) (v : Word) : State :=
  if s.flag.p then { s with ssp := v } else { s with usp := v }

/-- x[r], the read of a register (10_state.md R27). -/
def readReg (s : State) : Reg → Word
  | .g i => s.g.get i
  | .fp => s.fp
  | .sp => stackPointer s
  | .usp => s.usp
  | .flag => s.flag.toWord

/-- x[r] <- v, the write of a register (10_state.md R28); FLAG is written by WriteFLAG (R32). -/
def writeReg (s : State) (r : Reg) (v : Word) : State :=
  match r with
  | .g i => { s with g := s.g.set i.val v i.isLt }
  | .fp => { s with fp := v }
  | .sp => setStackPointer s v
  | .usp => { s with usp := v }
  | .flag => { s with flag := s.flag.write v }

/-- Whether a register code names the stack pointer in use (45_stack_return.md R210 (c)): Dh in either mode, Eh in user
mode. -/
def namesStackPointer (s : State) : Reg → Bool
  | .sp => true
  | .usp => !s.flag.p
  | .g _ | .fp | .flag => false

/-! ### The stack -/

/-- Push (20_memory.md R70): pre-decrement by 2, then the write (log 4). -/
def push (s : State) (v : Word) : Access State :=
  writeWord (setStackPointer s (stackPointer s - 2#16)) (stackPointer s - 2#16) v

/-- Pop (20_memory.md R71): the read, then post-increment by 2. -/
def pop (s : State) : Access (Word × State) :=
  match readWord s (stackPointer s) with
  | .ok v => .ok (v, setStackPointer s (stackPointer s + 2#16))
  | .error e => .error e

/-! ### Traps -/

/-- The address of entry `k` of the interrupt-vector table: FFE0h + 2k, an even address (20_memory.md R77). -/
def vectorAddr (k : Fin 16) : Word := BitVec.ofNat 16 (0xFFE0 + 2 * k.val)

/-- The entry of SVC, the last, at FFFEh (20_memory.md R77). -/
def svcEntry : Fin 16 := 15

/-- The entry of a privilege violation, VEC_PRIV: one of those at FFE0h to FFFCh, which one is open (spec decision D29,
log 27). -/
def privEntry : Fin 16 := Config.vecPrivSlot.castSucc

/-- The entry k(s) of an interrupt source (60_exceptions.md R240). Four serial interrupts have the entries 3 to 6, in an
order the spec leaves open (log 27). -/
def IntSource.entry : IntSource → Fin 16
  | .timer0 => 0
  | .timer1 => 1
  | .rn4020Rx => 2
  | .rn4020Tx => ⟨3 + (Config.lostSerialSlot 0).val, by omega⟩
  | .ft232rlRx => ⟨3 + (Config.lostSerialSlot 1).val, by omega⟩
  | .ft232rlTx => ⟨3 + (Config.lostSerialSlot 2).val, by omega⟩
  | .tecRx => ⟨3 + (Config.lostSerialSlot 3).val, by omega⟩
  | .tecTx => 7
  | .microSd => 8
  | .unnamed k => ⟨9 + k.val, by omega⟩

/-- MemRead(vec, 2), the fetch of a handler's address. No entry is at an odd address, so R67's fault cannot arise here. -/
def readVector (s : State) (k : Fin 16) : Access Word :=
  match translate s (vectorAddr k) with
  | .ok p => .ok (physWord s p)
  | .error e => .error e

/-- FLAG on entry to a handler: P set, E cleared, the rest as it was (60_exceptions.md R245, log 13). -/
def Flag.enterTrap (f : Flag) : Flag := { f with p := true, e := false }

/-- TrapEntry(vec, saved) (60_exceptions.md R245), `k` the entry of `vec`: P set and E cleared, the saved PC and then the old FLAG pushed on the
system stack, PC loaded from the vector table. The one operation by which every trap is taken (log 13). -/
def trapEntry (s : State) (k : Fin 16) (saved : Word) : Access State :=
  match push { s with flag := s.flag.enterTrap } saved with
  | .ok s1 =>
    match push s1 s.flag.toWord with
    | .ok s2 =>
      match readVector s2 k with
      | .ok handler => .ok { s2 with pc := handler }
      | .error e => .error e
    | .error e => .error e
  | .error e => .error e

/-- Return from a trap, the effect of RETI (60_exceptions.md R250, 45_stack_return.md R213): FLAG and then PC popped from the
stack of the mode it begins in, FLAG written as that mode may (log 15). -/
def trapReturn (s : State) : Access State :=
  match pop s with
  | .ok (f, s1) =>
    match pop s1 with
    | .ok (t, s2) => .ok { s2 with flag := s.flag.write f, pc := t }
    | .error e => .error e
  | .error e => .error e

/-- raise PrivilegeViolation(pc) (60_exceptions.md R232): the saved PC is the violating instruction's own address. -/
def privilegeViolation (s : State) : Result := finish (trapEntry s privEntry s.pc)

/-! ### Interrupts at an instruction boundary -/

/-- The source taken at this boundary, if any (60_exceptions.md R242): E is set and the environment picks one of the
pending sources (log 14). -/
def interruptTaken (s : State) : Option IntSource :=
  match s.interrupts with
  | [] => none
  | b :: _ =>
    match b.pick with
    | none => none
    | some src => if s.flag.e && b.pending.contains src then some src else none

/-- The state with this boundary's supply used up. -/
def passBoundary (s : State) : State := { s with interrupts := s.interrupts.tail }

/-- The trap entry of an interrupt (60_exceptions.md R242): through entry k of the table, saving the address of the
instruction not yet executed. -/
def takeInterrupt (s : State) (src : IntSource) : Result :=
  finish (trapEntry s src.entry s.pc)

end Sys2Proof.Machine
end

