-- ==== Sys2Proof/Machine/Operands.lean ====
section
/-! DEFINITION. Every operand form: effective addresses (30_encoding.md R113), the operand of the eight modes (R112), and
the address of the next instruction (R118). -/

namespace Sys2Proof.Machine

/-- EffAddr(m) (30_encoding.md R113), modulo 2^16 (20_memory.md R68, log 3). -/
def effAddr (s : State) : MemMode → Word
  | .drct dsp => dsp
  | .index dsp rx => dsp + readReg s rx
  | .fpRlt dsp4 => BitVec.ofInt 16 dsp4 + s.fp
  | .indr rx => readReg s rx
  | .bIndr rx => readReg s rx

/-- The two modes of a jump or CALL as addressing modes. -/
def targetMode : Target → MemMode
  | .drct dsp => .drct dsp
  | .index dsp rx => .index dsp rx

/-- The two modes of IN and OUT as addressing modes. -/
def portMemMode : PortMode → MemMode
  | .drct dsp => .drct dsp
  | .indr rx => .indr rx

/-- The target of a jump or CALL. -/
def targetAddr (s : State) (t : Target) : Word := effAddr s (targetMode t)

/-- The I/O address of IN or OUT. -/
def portAddr (s : State) (m : PortMode) : Word := effAddr s (portMemMode m)

/-- A memory operand: a word, or in mode B Indr a zero-extended byte (30_encoding.md R112, 20_memory.md R66, log 5). -/
def memOperand (s : State) : MemMode → Access Word
  | .bIndr rx =>
    match readByte s (effAddr s (.bIndr rx)) with
    | .ok b => .ok (b.setWidth 16)
    | .error e => .error e
  | .drct dsp => readWord s (effAddr s (.drct dsp))
  | .index dsp rx => readWord s (effAddr s (.index dsp rx))
  | .fpRlt dsp4 => readWord s (effAddr s (.fpRlt dsp4))
  | .indr rx => readWord s (effAddr s (.indr rx))

/-- Operand(m) (30_encoding.md R112). -/
def operand (s : State) : Mode → Access Word
  | .mem a => memOperand s a
  | .imm v => .ok v
  | .reg rs => .ok (readReg s rs)
  | .imm4 v => .ok (BitVec.ofInt 16 v)

/-- The length in bytes of an instruction in an addressing mode with an address (30_encoding.md R116). -/
def memModeBytes : MemMode → Word
  | .drct _ => 4#16
  | .index _ _ => 4#16
  | .fpRlt _ => 2#16
  | .indr _ => 2#16
  | .bIndr _ => 2#16

/-- The length in bytes of an instruction in an addressing mode (30_encoding.md R116). -/
def modeBytes : Mode → Word
  | .mem a => memModeBytes a
  | .imm _ => 4#16
  | .reg _ => 2#16
  | .imm4 _ => 2#16

/-- `next` of a one-word instruction (30_encoding.md R118), modulo 2^16. -/
def nextOne (s : State) : Word := s.pc + 2#16

/-- `next` of a two-word instruction (30_encoding.md R118), modulo 2^16. -/
def nextTwo (s : State) : Word := s.pc + 4#16

end Sys2Proof.Machine
end

