-- ==== Sys2Proof/Machine/TwoOperand.lean ====
section
/-! DEFINITION. The common form of the flag-changing instructions `Rd,EA` (41_arithmetic_logic.md R161, 42_shift.md
R170). -/

namespace Sys2Proof.Machine

/-- What a flag-changing instruction computes: the value for Rd, FLAG, and how many free values it drew. -/
structure AluResult where
  value : Word
  flag : Flag
  drawn : Nat
  deriving DecidableEq, Repr

/-- A flag-changing instruction that writes Rd: refused where Rd is FLAG (41_arithmetic_logic.md R161 (b), log 10);
otherwise the operand, then the result from the old values of Rd and the operand, then Rd, FLAG and PC. -/
def twoOperand (s : State) (rd : Reg) (m : Mode) (compute : State → Word → Word → Access AluResult) : Result :=
  if rd = .flag then finish (.error (.refusal .flagDestination))
  else
    match operand s m with
    | .ok b =>
      match compute s (readReg s rd) b with
      | .ok o =>
        .next { writeReg s rd o.value with flag := o.flag, draws := s.draws + o.drawn, pc := s.pc + modeBytes m }
      | .error e => finish (.error e)
    | .error e => finish (.error e)

/-- The result `r` with S and Z from it and V and C free (41_arithmetic_logic.md R154, log 6). -/
def withFreeVC (s : State) (r : Word) : AluResult where
  value := r
  flag := s.flag.logic s.draws r
  drawn := 1

end Sys2Proof.Machine
end

