-- ==== Sys2Proof/Machine/Arith.lean ====
section
/-! DEFINITION. ADD, SUB, CMP, ADDS, MUL, DIV and MOD (41_arithmetic_logic.md R151 to R153, R157 to R160). -/

namespace Sys2Proof.Machine

/-- The result of ADD (R151). -/
def sum (s : State) (a b : Word) : Access AluResult :=
  .ok { value := a + b, flag := s.flag.add a b, drawn := 0 }

/-- The result of SUB (R152). -/
def difference (s : State) (a b : Word) : Access AluResult :=
  .ok { value := a - b, flag := s.flag.sub a b, drawn := 0 }

/-- The result of ADDS (R157): the operand is doubled. -/
def scaledSum (s : State) (a b : Word) : Access AluResult := .ok (withFreeVC s (a + 2#16 * b))

/-- The result of MUL (R158): the low 16 bits of the product (log 7). -/
def product (s : State) (a b : Word) : Access AluResult := .ok (withFreeVC s (a * b))

/-- Whether signed and unsigned division agree: both operands at most 7FFFh (R159). -/
def divisionAgrees (a b : Word) : Bool := decide (a.toNat ≤ 0x7FFF) && decide (b.toNat ≤ 0x7FFF)

/-- The quotient of a nonzero divisor, `DIVMOD` where an operand is above 7FFFh (R159, log 7). -/
def quotientValue (a b : Word) : Word :=
  if divisionAgrees a b then BitVec.ofNat 16 (a.toNat / b.toNat) else (Config.divmod a b).1

/-- The remainder of a nonzero divisor, `DIVMOD` where an operand is above 7FFFh (R160, log 7). -/
def remainderValue (a b : Word) : Word :=
  if divisionAgrees a b then BitVec.ofNat 16 (a.toNat % b.toNat) else (Config.divmod a b).2

/-- The result of DIV (R159): a fault for a zero divisor (log 8). -/
def quotient (s : State) (a b : Word) : Access AluResult :=
  if b = 0#16 then .error (.fault (.zeroDivide s.pc)) else .ok (withFreeVC s (quotientValue a b))

/-- The result of MOD (R160): a fault for a zero divisor (log 8). -/
def remainder (s : State) (a b : Word) : Access AluResult :=
  if b = 0#16 then .error (.fault (.zeroDivide s.pc)) else .ok (withFreeVC s (remainderValue a b))

/-- ADD (R151). -/
def add (s : State) (rd : Reg) (m : Mode) : Result := twoOperand s rd m sum

/-- SUB (R152). -/
def subtract (s : State) (rd : Reg) (m : Mode) : Result := twoOperand s rd m difference

/-- CMP (R153): the flags of SUB; Rd, which may be FLAG, is not written. -/
def compare (s : State) (rd : Reg) (m : Mode) : Result :=
  match operand s m with
  | .ok b => .next { s with flag := s.flag.sub (readReg s rd) b, pc := s.pc + modeBytes m }
  | .error e => finish (.error e)

/-- ADDS (R157). -/
def addScaled (s : State) (rd : Reg) (m : Mode) : Result := twoOperand s rd m scaledSum

/-- MUL (R158). -/
def multiply (s : State) (rd : Reg) (m : Mode) : Result := twoOperand s rd m product

/-- DIV (R159). -/
def divide (s : State) (rd : Reg) (m : Mode) : Result := twoOperand s rd m quotient

/-- MOD (R160). -/
def modulo (s : State) (rd : Reg) (m : Mode) : Result := twoOperand s rd m remainder

/-! ### The rows of the opcode table -/

/-- ADD in mode Drct (R151). -/
def execAddDrct (rd : Reg) (dsp : Word) (s : State) : Result := add s rd (.mem (.drct dsp))

/-- ADD in mode Index (R151). -/
def execAddIndex (rd : Reg) (dsp : Word) (rx : Reg) (s : State) : Result := add s rd (.mem (.index dsp rx))

/-- ADD in mode Imm (R151). -/
def execAddImm (rd : Reg) (imm : Word) (s : State) : Result := add s rd (.imm imm)

/-- ADD in mode FP Rlt (R151). -/
def execAddFpRlt (rd : Reg) (dsp4 : Int) (s : State) : Result := add s rd (.mem (.fpRlt dsp4))

/-- ADD in mode Reg (R151). -/
def execAddReg (rd : Reg) (rs : Reg) (s : State) : Result := add s rd (.reg rs)

/-- ADD in mode Imm4 (R151). -/
def execAddImm4 (rd : Reg) (imm4 : Int) (s : State) : Result := add s rd (.imm4 imm4)

/-- ADD in mode Indr (R151). -/
def execAddIndr (rd : Reg) (rx : Reg) (s : State) : Result := add s rd (.mem (.indr rx))

/-- ADD in mode B Indr (R151). -/
def execAddBIndr (rd : Reg) (rx : Reg) (s : State) : Result := add s rd (.mem (.bIndr rx))

/-- SUB in mode Drct (R152). -/
def execSubDrct (rd : Reg) (dsp : Word) (s : State) : Result := subtract s rd (.mem (.drct dsp))

/-- SUB in mode Index (R152). -/
def execSubIndex (rd : Reg) (dsp : Word) (rx : Reg) (s : State) : Result := subtract s rd (.mem (.index dsp rx))

/-- SUB in mode Imm (R152). -/
def execSubImm (rd : Reg) (imm : Word) (s : State) : Result := subtract s rd (.imm imm)

/-- SUB in mode FP Rlt (R152). -/
def execSubFpRlt (rd : Reg) (dsp4 : Int) (s : State) : Result := subtract s rd (.mem (.fpRlt dsp4))

/-- SUB in mode Reg (R152). -/
def execSubReg (rd : Reg) (rs : Reg) (s : State) : Result := subtract s rd (.reg rs)

/-- SUB in mode Imm4 (R152). -/
def execSubImm4 (rd : Reg) (imm4 : Int) (s : State) : Result := subtract s rd (.imm4 imm4)

/-- SUB in mode Indr (R152). -/
def execSubIndr (rd : Reg) (rx : Reg) (s : State) : Result := subtract s rd (.mem (.indr rx))

/-- SUB in mode B Indr (R152). -/
def execSubBIndr (rd : Reg) (rx : Reg) (s : State) : Result := subtract s rd (.mem (.bIndr rx))

/-- CMP in mode Drct (R153). -/
def execCmpDrct (rd : Reg) (dsp : Word) (s : State) : Result := compare s rd (.mem (.drct dsp))

/-- CMP in mode Index (R153). -/
def execCmpIndex (rd : Reg) (dsp : Word) (rx : Reg) (s : State) : Result := compare s rd (.mem (.index dsp rx))

/-- CMP in mode Imm (R153). -/
def execCmpImm (rd : Reg) (imm : Word) (s : State) : Result := compare s rd (.imm imm)

/-- CMP in mode FP Rlt (R153). -/
def execCmpFpRlt (rd : Reg) (dsp4 : Int) (s : State) : Result := compare s rd (.mem (.fpRlt dsp4))

/-- CMP in mode Reg (R153). -/
def execCmpReg (rd : Reg) (rs : Reg) (s : State) : Result := compare s rd (.reg rs)

/-- CMP in mode Imm4 (R153). -/
def execCmpImm4 (rd : Reg) (imm4 : Int) (s : State) : Result := compare s rd (.imm4 imm4)

/-- CMP in mode Indr (R153). -/
def execCmpIndr (rd : Reg) (rx : Reg) (s : State) : Result := compare s rd (.mem (.indr rx))

/-- CMP in mode B Indr (R153). -/
def execCmpBIndr (rd : Reg) (rx : Reg) (s : State) : Result := compare s rd (.mem (.bIndr rx))

/-- ADDS in mode Drct (R157). -/
def execAddsDrct (rd : Reg) (dsp : Word) (s : State) : Result := addScaled s rd (.mem (.drct dsp))

/-- ADDS in mode Index (R157). -/
def execAddsIndex (rd : Reg) (dsp : Word) (rx : Reg) (s : State) : Result := addScaled s rd (.mem (.index dsp rx))

/-- ADDS in mode Imm (R157). -/
def execAddsImm (rd : Reg) (imm : Word) (s : State) : Result := addScaled s rd (.imm imm)

/-- ADDS in mode FP Rlt (R157). -/
def execAddsFpRlt (rd : Reg) (dsp4 : Int) (s : State) : Result := addScaled s rd (.mem (.fpRlt dsp4))

/-- ADDS in mode Reg (R157). -/
def execAddsReg (rd : Reg) (rs : Reg) (s : State) : Result := addScaled s rd (.reg rs)

/-- ADDS in mode Imm4 (R157). -/
def execAddsImm4 (rd : Reg) (imm4 : Int) (s : State) : Result := addScaled s rd (.imm4 imm4)

/-- ADDS in mode Indr (R157). -/
def execAddsIndr (rd : Reg) (rx : Reg) (s : State) : Result := addScaled s rd (.mem (.indr rx))

/-- ADDS in mode B Indr (R157). -/
def execAddsBIndr (rd : Reg) (rx : Reg) (s : State) : Result := addScaled s rd (.mem (.bIndr rx))

/-- MUL in mode Drct (R158). -/
def execMulDrct (rd : Reg) (dsp : Word) (s : State) : Result := multiply s rd (.mem (.drct dsp))

/-- MUL in mode Index (R158). -/
def execMulIndex (rd : Reg) (dsp : Word) (rx : Reg) (s : State) : Result := multiply s rd (.mem (.index dsp rx))

/-- MUL in mode Imm (R158). -/
def execMulImm (rd : Reg) (imm : Word) (s : State) : Result := multiply s rd (.imm imm)

/-- MUL in mode FP Rlt (R158). -/
def execMulFpRlt (rd : Reg) (dsp4 : Int) (s : State) : Result := multiply s rd (.mem (.fpRlt dsp4))

/-- MUL in mode Reg (R158). -/
def execMulReg (rd : Reg) (rs : Reg) (s : State) : Result := multiply s rd (.reg rs)

/-- MUL in mode Imm4 (R158). -/
def execMulImm4 (rd : Reg) (imm4 : Int) (s : State) : Result := multiply s rd (.imm4 imm4)

/-- MUL in mode Indr (R158). -/
def execMulIndr (rd : Reg) (rx : Reg) (s : State) : Result := multiply s rd (.mem (.indr rx))

/-- MUL in mode B Indr (R158). -/
def execMulBIndr (rd : Reg) (rx : Reg) (s : State) : Result := multiply s rd (.mem (.bIndr rx))

/-- DIV in mode Drct (R159). -/
def execDivDrct (rd : Reg) (dsp : Word) (s : State) : Result := divide s rd (.mem (.drct dsp))

/-- DIV in mode Index (R159). -/
def execDivIndex (rd : Reg) (dsp : Word) (rx : Reg) (s : State) : Result := divide s rd (.mem (.index dsp rx))

/-- DIV in mode Imm (R159). -/
def execDivImm (rd : Reg) (imm : Word) (s : State) : Result := divide s rd (.imm imm)

/-- DIV in mode FP Rlt (R159). -/
def execDivFpRlt (rd : Reg) (dsp4 : Int) (s : State) : Result := divide s rd (.mem (.fpRlt dsp4))

/-- DIV in mode Reg (R159). -/
def execDivReg (rd : Reg) (rs : Reg) (s : State) : Result := divide s rd (.reg rs)

/-- DIV in mode Imm4 (R159). -/
def execDivImm4 (rd : Reg) (imm4 : Int) (s : State) : Result := divide s rd (.imm4 imm4)

/-- DIV in mode Indr (R159). -/
def execDivIndr (rd : Reg) (rx : Reg) (s : State) : Result := divide s rd (.mem (.indr rx))

/-- DIV in mode B Indr (R159). -/
def execDivBIndr (rd : Reg) (rx : Reg) (s : State) : Result := divide s rd (.mem (.bIndr rx))

/-- MOD in mode Drct (R160). -/
def execModDrct (rd : Reg) (dsp : Word) (s : State) : Result := modulo s rd (.mem (.drct dsp))

/-- MOD in mode Index (R160). -/
def execModIndex (rd : Reg) (dsp : Word) (rx : Reg) (s : State) : Result := modulo s rd (.mem (.index dsp rx))

/-- MOD in mode Imm (R160). -/
def execModImm (rd : Reg) (imm : Word) (s : State) : Result := modulo s rd (.imm imm)

/-- MOD in mode FP Rlt (R160). -/
def execModFpRlt (rd : Reg) (dsp4 : Int) (s : State) : Result := modulo s rd (.mem (.fpRlt dsp4))

/-- MOD in mode Reg (R160). -/
def execModReg (rd : Reg) (rs : Reg) (s : State) : Result := modulo s rd (.reg rs)

/-- MOD in mode Imm4 (R160). -/
def execModImm4 (rd : Reg) (imm4 : Int) (s : State) : Result := modulo s rd (.imm4 imm4)

/-- MOD in mode Indr (R160). -/
def execModIndr (rd : Reg) (rx : Reg) (s : State) : Result := modulo s rd (.mem (.indr rx))

/-- MOD in mode B Indr (R160). -/
def execModBIndr (rd : Reg) (rx : Reg) (s : State) : Result := modulo s rd (.mem (.bIndr rx))

end Sys2Proof.Machine
end

