-- ==== Sys2Proof/Machine/IoSpace.lean ====
section
/-! DEFINITION. The I/O space (20_memory.md R73 to R75, R79 to R83; 60_exceptions.md R260 to R272): what a read of each row
answers and what a write to each row does. -/

namespace Sys2Proof.Machine

/-- Whether an effective address is an I/O address: bits 15:8 zero and even (20_memory.md R73, log 21). -/
def isIoAddress (e : Word) : Bool := decide (wordHi e = 0#8) && !isOdd e

/-- Rows whose "+0" column is "00H": the register is 8 bits wide (60_exceptions.md R262). -/
def isByteRow (a : BitVec 8) : Bool :=
  let n := a.toNat
  (decide (0x08 ≤ n) && decide (n ≤ 0x11)) || (decide (0x18 ≤ n) && decide (n ≤ 0x37)) || decide (0xFC ≤ n)

/-- The bits of a row that may be other than 0 in an answer, where the answer is the oracle's: the layouts of
60_exceptions.md R263 (Stat), R265 (uSD-Stat), R267 (RN4020-Cmd) and R269 (rotary switch, function register), the low byte
of every other 8-bit row (20_memory.md R74), all bits elsewhere (log 22). -/
def answerMask (a : BitVec 8) : Word :=
  match a.toNat with
  | 0x0A => 0x00C0#16
  | 0x0E => 0x00C0#16
  | 0x2A => 0x00C0#16
  | 0x10 => 0x00C1#16
  | 0x2C => 0x000F#16
  | 0xFC => 0x001F#16
  | 0xFE => 0x000F#16
  | _ => if isByteRow a then 0x00FF#16 else 0xFFFF#16

/-! ### The TLB rows (20_memory.md R82, R83) -/

/-- Whether a row belongs to the TLB: 80h to 9Fh. -/
def isTlbRow (a : BitVec 8) : Bool := decide (0x80 ≤ a.toNat) && decide (a.toNat < 0xA0)

/-- The entry of a TLB row: entry `k` has rows `80h + 4k` and `82h + 4k` (log 24). -/
def tlbIndex (a : BitVec 8) : Fin 8 := ⟨a.toNat / 4 % 8, Nat.mod_lt _ (by decide)⟩

/-- Whether a TLB row is the upper one of its pair, `80h + 4k`. -/
def isTlbUpper (a : BitVec 8) : Bool := decide (a.toNat % 4 < 2)

/-- Bits 15:0 of an entry, the undefined bits 14 and 13 as 0 (20_memory.md R83). -/
def TlbEntry.low (t : TlbEntry) : Word :=
  BitVec.ofBool t.valid ++ 0#2 ++ BitVec.ofBool t.reference ++ BitVec.ofBool t.dirty ++ BitVec.ofBool t.read ++
    BitVec.ofBool t.write ++ BitVec.ofBool t.execute ++ t.frame

/-- The write of bits 15:0 of an entry; bits 14 and 13 are ignored (20_memory.md R83). -/
def TlbEntry.setLow (t : TlbEntry) (w : Word) : TlbEntry where
  page := t.page
  valid := w.getLsbD 15
  reference := w.getLsbD 12
  dirty := w.getLsbD 11
  read := w.getLsbD 10
  write := w.getLsbD 9
  execute := w.getLsbD 8
  frame := wordLo w

/-- The read of a TLB row: the stored part, free where the spec fixes nothing (bits 14 and 13 of the lower row, the high
byte of the upper row; log 33). -/
def tlbAnswer (s : State) (a : BitVec 8) : Word :=
  let t := s.tlb.get (tlbIndex a)
  let free := Config.ioAnswer s.draws a
  if isTlbUpper a then (free &&& 0xFF00#16) ||| t.page.setWidth 16
  else (free &&& 0x6000#16) ||| t.low

/-- The write of a TLB row: PAGE from the low byte of the upper row, the rest from the lower row (20_memory.md R82). -/
def tlbWrite (s : State) (a : BitVec 8) (v : Word) : State :=
  let k := tlbIndex a
  let t := s.tlb.get k
  let t' := if isTlbUpper a then { t with page := wordLo v } else t.setLow v
  { s with tlb := s.tlb.set k.val t' k.isLt }

/-! ### Reading a row -/

/-- The word a read of row `a` answers (20_memory.md R74). Fixed where the spec fixes it: the mode register reads 0001h
(60_exceptions.md R266), RN4020-RAM what was last written and RN4020-Cmd its initial value until it is written (R267,
log 32), the TeC console's data and function switches 00H (R270), the MMU registers their contents (20_memory.md R81,
log 33). Everywhere else the answer is the oracle's, within the row's layout (log 22). -/
def ioAnswer (s : State) (a : BitVec 8) : Word :=
  let free := Config.ioAnswer s.draws a
  match a.toNat with
  | 0x1E => 0x0001#16
  | 0x2C => if s.dev.rn4020CmdWritten then free &&& answerMask a else s.dev.rn4020Cmd.setWidth 16
  | 0x2E => s.dev.rn4020Ram.setWidth 16
  | 0x32 => 0#16
  | 0x34 => 0#16
  | 0xA2 => s.violationAddr
  | 0xA4 => (free &&& 0xFFFC#16) ||| (0#14 ++ BitVec.ofBool s.badAddr ++ BitVec.ofBool s.memVio)
  | 0xA6 => s.pageNumber
  | _ => if isTlbRow a then tlbAnswer s a else free &&& answerMask a

/-- IORead(a) (20_memory.md R74): the answer, and the state after the read. A read draws one free value, so that two reads
of a row may differ. -/
def ioRead (s : State) (a : BitVec 8) : Word × State := (ioAnswer s a, { s with draws := s.draws + 1 })

/-! ### Writing a row -/

/-- The word that reaches the device: the low byte only for an 8-bit row (20_memory.md R75). -/
def reachesDevice (a : BitVec 8) (v : Word) : Word := if isByteRow a then (wordLo v).setWidth 16 else v

/-- The device registers after a write of row `a` (60_exceptions.md R262, log 34). -/
def Devices.written (d : Devices) (a : BitVec 8) (v : Word) : Devices :=
  match a.toNat with
  | 0x00 => { d with timer0Period := v }
  | 0x02 => { d with timer0Control := v }
  | 0x04 => { d with timer1Period := v }
  | 0x06 => { d with timer1Control := v }
  | 0x08 => { d with ft232rlData := wordLo v }
  | 0x0A => { d with ft232rlControl := wordLo v }
  | 0x0C => { d with tecData := wordLo v }
  | 0x0E => { d with tecControl := wordLo v }
  | 0x10 => { d with usdControl := wordLo v }
  | 0x12 => { d with usdMemAddr := v }
  | 0x14 => { d with usdBlkAddrH := v }
  | 0x16 => { d with usdBlkAddrL := v }
  | 0x18 => { d with ioPort := wordLo v }
  | 0x1A => { d with adcReference := wordLo v }
  | 0x1C => { d with outputPortHi := wordLo v }
  | 0x20 => { d with spiData := wordLo v }
  | 0x22 => { d with spiSclk := wordLo v }
  | 0x24 => { d with pioMask := wordLo v }
  | 0x26 => { d with pioXor := wordLo v }
  | 0x28 => { d with rn4020Data := wordLo v }
  | 0x2A => { d with rn4020Control := wordLo v }
  | 0x2C => { d with rn4020Cmd := v.setWidth 4, rn4020CmdWritten := true }
  | 0x2E => { d with rn4020Ram := wordLo v }
  | 0x32 => { d with tecDataSw := wordLo v }
  | 0x34 => { d with tecFunctionSw := wordLo v }
  | 0x36 => { d with tecOperation := wordLo v }
  | 0xF8 => { d with consoleData := v }
  | _ => d

/-- The state after the output event of a write (20_memory.md R75). -/
def recordOutput (s : State) (a : BitVec 8) (v : Word) : State :=
  { s with outputs := s.outputs ++ [{ row := a, value := reachesDevice a v }], dev := Devices.written s.dev a v }

/-- IOWrite(a, v) (20_memory.md R75). Port A0h detaches the IPL (R79, log 25), A2h writes the MMU enable bit (R81, log 24),
A6h the page-table register, 80h to 9Fh the TLB (R82), 10h is the microSD control (R92, log 31); the rest are device
registers. -/
def ioWrite (s : State) (a : BitVec 8) (v : Word) : Access State :=
  match a.toNat with
  | 0x10 =>
    if v.setWidth 3 = 0#3 then .ok (recordOutput s a v) else .error (.refusal .microSdStart)
  | 0xA0 =>
    if v.getLsbD 0 then .ok (recordOutput { s with iplAttached := false } a v)
    else .error (.refusal .iplDetachBitClear)
  | 0xA2 =>
    if v.getLsbD 0 then .error (.refusal .mmuEnabled)
    else .ok (recordOutput { s with mmuEnable := false } a v)
  | 0xA6 => .ok (recordOutput { s with pageTable := v } a v)
  | _ => if isTlbRow a then .ok (recordOutput (tlbWrite s a v) a v) else .ok (recordOutput s a v)

end Sys2Proof.Machine
end

