-- ==== Sys2Proof/Machine/InOut.lean ====
section
/-! DEFINITION. IN and OUT (44_io.md R200 to R202). -/

namespace Sys2Proof.Machine

/-- The privilege check of IN and OUT (R200): P or I (log 12). -/
def mayDoIo (s : State) : Bool := s.flag.p || s.flag.i

/-- The length in bytes of IN and OUT in a mode (30_encoding.md R116). -/
def portBytes (m : PortMode) : Word := memModeBytes (portMemMode m)

/-- The I/O row of an effective address (20_memory.md R73). -/
def ioRow (e : Word) : BitVec 8 := wordLo e

/-- IN (R201): the privilege check first, then the address check, then the read. -/
def input (s : State) (rd : Reg) (m : PortMode) : Result :=
  if !mayDoIo s then privilegeViolation s
  else if !isIoAddress (portAddr s m) then finish (.error (.refusal (.ioAddress (portAddr s m))))
  else
    let r := ioRead s (ioRow (portAddr s m))
    .next { writeReg r.2 rd r.1 with pc := s.pc + portBytes m }

/-- OUT (R202): the privilege check first, then the address check, then the write. -/
def output (s : State) (rd : Reg) (m : PortMode) : Result :=
  if !mayDoIo s then privilegeViolation s
  else if !isIoAddress (portAddr s m) then finish (.error (.refusal (.ioAddress (portAddr s m))))
  else
    match ioWrite s (ioRow (portAddr s m)) (readReg s rd) with
    | .ok t => .next { t with pc := s.pc + portBytes m }
    | .error e => finish (.error e)

/-! ### The rows of the opcode table -/

/-- IN in mode Drct (R201). -/
def execInDrct (rd : Reg) (dsp : Word) (s : State) : Result := input s rd (.drct dsp)

/-- IN in mode Indr (R201). -/
def execInIndr (rd : Reg) (rx : Reg) (s : State) : Result := input s rd (.indr rx)

/-- OUT in mode Drct (R202). -/
def execOutDrct (rd : Reg) (dsp : Word) (s : State) : Result := output s rd (.drct dsp)

/-- OUT in mode Indr (R202). -/
def execOutIndr (rd : Reg) (rx : Reg) (s : State) : Result := output s rd (.indr rx)

end Sys2Proof.Machine
end

