-- ==== Sys2Proof/Machine/Jump.lean ====
section
/-! DEFINITION. The fifteen jumps and CALL (43_jump_call.md R180 to R196). -/

namespace Sys2Proof.Machine

/-- The common form of the jumps (R180): PC becomes the target if the condition holds, `next` otherwise. -/
def jump (s : State) (c : Cond) (t : Target) : Result :=
  .next { s with pc := if s.flag.cond c then targetAddr s t else nextTwo s }

/-- CALL (R196): the target is computed before `next` is pushed. -/
def call (s : State) (t : Target) : Result :=
  match push s (nextTwo s) with
  | .ok u => .next { u with pc := targetAddr s t }
  | .error e => finish (.error e)

/-! ### The rows of the opcode table -/

/-- JZ in mode Drct (R181). -/
def execJzDrct (dsp : Word) (s : State) : Result := jump s .jz (.drct dsp)

/-- JZ in mode Index (R181). -/
def execJzIndex (dsp : Word) (rx : Reg) (s : State) : Result := jump s .jz (.index dsp rx)

/-- JC in mode Drct (R182). -/
def execJcDrct (dsp : Word) (s : State) : Result := jump s .jc (.drct dsp)

/-- JC in mode Index (R182). -/
def execJcIndex (dsp : Word) (rx : Reg) (s : State) : Result := jump s .jc (.index dsp rx)

/-- JM in mode Drct (R183). -/
def execJmDrct (dsp : Word) (s : State) : Result := jump s .jm (.drct dsp)

/-- JM in mode Index (R183). -/
def execJmIndex (dsp : Word) (rx : Reg) (s : State) : Result := jump s .jm (.index dsp rx)

/-- JO in mode Drct (R184). -/
def execJoDrct (dsp : Word) (s : State) : Result := jump s .jo (.drct dsp)

/-- JO in mode Index (R184). -/
def execJoIndex (dsp : Word) (rx : Reg) (s : State) : Result := jump s .jo (.index dsp rx)

/-- JGT in mode Drct (R185). -/
def execJgtDrct (dsp : Word) (s : State) : Result := jump s .jgt (.drct dsp)

/-- JGT in mode Index (R185). -/
def execJgtIndex (dsp : Word) (rx : Reg) (s : State) : Result := jump s .jgt (.index dsp rx)

/-- JGE in mode Drct (R186). -/
def execJgeDrct (dsp : Word) (s : State) : Result := jump s .jge (.drct dsp)

/-- JGE in mode Index (R186). -/
def execJgeIndex (dsp : Word) (rx : Reg) (s : State) : Result := jump s .jge (.index dsp rx)

/-- JLE in mode Drct (R187). -/
def execJleDrct (dsp : Word) (s : State) : Result := jump s .jle (.drct dsp)

/-- JLE in mode Index (R187). -/
def execJleIndex (dsp : Word) (rx : Reg) (s : State) : Result := jump s .jle (.index dsp rx)

/-- JLT in mode Drct (R188). -/
def execJltDrct (dsp : Word) (s : State) : Result := jump s .jlt (.drct dsp)

/-- JLT in mode Index (R188). -/
def execJltIndex (dsp : Word) (rx : Reg) (s : State) : Result := jump s .jlt (.index dsp rx)

/-- JNZ in mode Drct (R189). -/
def execJnzDrct (dsp : Word) (s : State) : Result := jump s .jnz (.drct dsp)

/-- JNZ in mode Index (R189). -/
def execJnzIndex (dsp : Word) (rx : Reg) (s : State) : Result := jump s .jnz (.index dsp rx)

/-- JNC in mode Drct (R190). -/
def execJncDrct (dsp : Word) (s : State) : Result := jump s .jnc (.drct dsp)

/-- JNC in mode Index (R190). -/
def execJncIndex (dsp : Word) (rx : Reg) (s : State) : Result := jump s .jnc (.index dsp rx)

/-- JNM in mode Drct (R191). -/
def execJnmDrct (dsp : Word) (s : State) : Result := jump s .jnm (.drct dsp)

/-- JNM in mode Index (R191). -/
def execJnmIndex (dsp : Word) (rx : Reg) (s : State) : Result := jump s .jnm (.index dsp rx)

/-- JNO in mode Drct (R192). -/
def execJnoDrct (dsp : Word) (s : State) : Result := jump s .jno (.drct dsp)

/-- JNO in mode Index (R192). -/
def execJnoIndex (dsp : Word) (rx : Reg) (s : State) : Result := jump s .jno (.index dsp rx)

/-- JHI in mode Drct (R193). -/
def execJhiDrct (dsp : Word) (s : State) : Result := jump s .jhi (.drct dsp)

/-- JHI in mode Index (R193). -/
def execJhiIndex (dsp : Word) (rx : Reg) (s : State) : Result := jump s .jhi (.index dsp rx)

/-- JLS in mode Drct (R194). -/
def execJlsDrct (dsp : Word) (s : State) : Result := jump s .jls (.drct dsp)

/-- JLS in mode Index (R194). -/
def execJlsIndex (dsp : Word) (rx : Reg) (s : State) : Result := jump s .jls (.index dsp rx)

/-- JMP in mode Drct (R195). -/
def execJmpDrct (dsp : Word) (s : State) : Result := jump s .jmp (.drct dsp)

/-- JMP in mode Index (R195). -/
def execJmpIndex (dsp : Word) (rx : Reg) (s : State) : Result := jump s .jmp (.index dsp rx)

/-- CALL in mode Drct (R196). -/
def execCallDrct (dsp : Word) (s : State) : Result := call s (.drct dsp)

/-- CALL in mode Index (R196). -/
def execCallIndex (dsp : Word) (rx : Reg) (s : State) : Result := call s (.index dsp rx)

end Sys2Proof.Machine
end

