-- ==== Sys2Proof/Machine/LoadStore.lean ====
section
/-! DEFINITION. NO, LD and ST (40_nop_load_store.md R140 to R142). -/

namespace Sys2Proof.Machine

/-- NO (R140): nothing but the advance of PC. -/
def noOperation (s : State) : Result := .next { s with pc := nextOne s }

/-- LD (R141): Rd takes the operand; FLAG changes only where Rd is FLAG. -/
def load (s : State) (rd : Reg) (m : Mode) : Result :=
  match operand s m with
  | .ok v => .next { writeReg s rd v with pc := s.pc + modeBytes m }
  | .error e => finish (.error e)

/-- The memory write of ST (R142): the low byte in mode B Indr, the word in the others (20_memory.md R66, log 5). -/
def storeValue (s : State) (m : MemMode) (v : Word) : Access State :=
  match m with
  | .bIndr rx => writeByte s (effAddr s (.bIndr rx)) (wordLo v)
  | .drct dsp => writeWord s (effAddr s (.drct dsp)) v
  | .index dsp rx => writeWord s (effAddr s (.index dsp rx)) v
  | .fpRlt dsp4 => writeWord s (effAddr s (.fpRlt dsp4)) v
  | .indr rx => writeWord s (effAddr s (.indr rx)) v

/-- ST (R142). -/
def store (s : State) (rd : Reg) (m : MemMode) : Result :=
  match storeValue s m (readReg s rd) with
  | .ok t => .next { t with pc := s.pc + memModeBytes m }
  | .error e => finish (.error e)

/-! ### The rows of the opcode table -/

/-- NO (R140). -/
def execNo (s : State) : Result := noOperation s

/-- LD in mode Drct (R141). -/
def execLdDrct (rd : Reg) (dsp : Word) (s : State) : Result := load s rd (.mem (.drct dsp))

/-- LD in mode Index (R141). -/
def execLdIndex (rd : Reg) (dsp : Word) (rx : Reg) (s : State) : Result := load s rd (.mem (.index dsp rx))

/-- LD in mode Imm (R141). -/
def execLdImm (rd : Reg) (imm : Word) (s : State) : Result := load s rd (.imm imm)

/-- LD in mode FP Rlt (R141). -/
def execLdFpRlt (rd : Reg) (dsp4 : Int) (s : State) : Result := load s rd (.mem (.fpRlt dsp4))

/-- LD in mode Reg (R141). -/
def execLdReg (rd : Reg) (rs : Reg) (s : State) : Result := load s rd (.reg rs)

/-- LD in mode Imm4 (R141). -/
def execLdImm4 (rd : Reg) (imm4 : Int) (s : State) : Result := load s rd (.imm4 imm4)

/-- LD in mode Indr (R141). -/
def execLdIndr (rd : Reg) (rx : Reg) (s : State) : Result := load s rd (.mem (.indr rx))

/-- LD in mode B Indr (R141). -/
def execLdBIndr (rd : Reg) (rx : Reg) (s : State) : Result := load s rd (.mem (.bIndr rx))

/-- ST in mode Drct (R142). -/
def execStDrct (rd : Reg) (dsp : Word) (s : State) : Result := store s rd (.drct dsp)

/-- ST in mode Index (R142). -/
def execStIndex (rd : Reg) (dsp : Word) (rx : Reg) (s : State) : Result := store s rd (.index dsp rx)

/-- ST in mode FP Rlt (R142). -/
def execStFpRlt (rd : Reg) (dsp4 : Int) (s : State) : Result := store s rd (.fpRlt dsp4)

/-- ST in mode Indr (R142). -/
def execStIndr (rd : Reg) (rx : Reg) (s : State) : Result := store s rd (.indr rx)

/-- ST in mode B Indr (R142). -/
def execStBIndr (rd : Reg) (rx : Reg) (s : State) : Result := store s rd (.bIndr rx)

end Sys2Proof.Machine
end

