-- ==== Sys2Proof/Machine/Logic.lean ====
section
/-! DEFINITION. AND, OR and XOR (41_arithmetic_logic.md R154 to R156). -/

namespace Sys2Proof.Machine

/-- AND (R154). -/
def logicalAnd (s : State) (rd : Reg) (m : Mode) : Result :=
  twoOperand s rd m fun s a b => .ok (withFreeVC s (a &&& b))

/-- OR (R155). -/
def logicalOr (s : State) (rd : Reg) (m : Mode) : Result :=
  twoOperand s rd m fun s a b => .ok (withFreeVC s (a ||| b))

/-- XOR (R156). -/
def logicalXor (s : State) (rd : Reg) (m : Mode) : Result :=
  twoOperand s rd m fun s a b => .ok (withFreeVC s (a ^^^ b))

/-! ### The rows of the opcode table -/

/-- AND in mode Drct (R154). -/
def execAndDrct (rd : Reg) (dsp : Word) (s : State) : Result := logicalAnd s rd (.mem (.drct dsp))

/-- AND in mode Index (R154). -/
def execAndIndex (rd : Reg) (dsp : Word) (rx : Reg) (s : State) : Result := logicalAnd s rd (.mem (.index dsp rx))

/-- AND in mode Imm (R154). -/
def execAndImm (rd : Reg) (imm : Word) (s : State) : Result := logicalAnd s rd (.imm imm)

/-- AND in mode FP Rlt (R154). -/
def execAndFpRlt (rd : Reg) (dsp4 : Int) (s : State) : Result := logicalAnd s rd (.mem (.fpRlt dsp4))

/-- AND in mode Reg (R154). -/
def execAndReg (rd : Reg) (rs : Reg) (s : State) : Result := logicalAnd s rd (.reg rs)

/-- AND in mode Imm4 (R154). -/
def execAndImm4 (rd : Reg) (imm4 : Int) (s : State) : Result := logicalAnd s rd (.imm4 imm4)

/-- AND in mode Indr (R154). -/
def execAndIndr (rd : Reg) (rx : Reg) (s : State) : Result := logicalAnd s rd (.mem (.indr rx))

/-- AND in mode B Indr (R154). -/
def execAndBIndr (rd : Reg) (rx : Reg) (s : State) : Result := logicalAnd s rd (.mem (.bIndr rx))

/-- OR in mode Drct (R155). -/
def execOrDrct (rd : Reg) (dsp : Word) (s : State) : Result := logicalOr s rd (.mem (.drct dsp))

/-- OR in mode Index (R155). -/
def execOrIndex (rd : Reg) (dsp : Word) (rx : Reg) (s : State) : Result := logicalOr s rd (.mem (.index dsp rx))

/-- OR in mode Imm (R155). -/
def execOrImm (rd : Reg) (imm : Word) (s : State) : Result := logicalOr s rd (.imm imm)

/-- OR in mode FP Rlt (R155). -/
def execOrFpRlt (rd : Reg) (dsp4 : Int) (s : State) : Result := logicalOr s rd (.mem (.fpRlt dsp4))

/-- OR in mode Reg (R155). -/
def execOrReg (rd : Reg) (rs : Reg) (s : State) : Result := logicalOr s rd (.reg rs)

/-- OR in mode Imm4 (R155). -/
def execOrImm4 (rd : Reg) (imm4 : Int) (s : State) : Result := logicalOr s rd (.imm4 imm4)

/-- OR in mode Indr (R155). -/
def execOrIndr (rd : Reg) (rx : Reg) (s : State) : Result := logicalOr s rd (.mem (.indr rx))

/-- OR in mode B Indr (R155). -/
def execOrBIndr (rd : Reg) (rx : Reg) (s : State) : Result := logicalOr s rd (.mem (.bIndr rx))

/-- XOR in mode Drct (R156). -/
def execXorDrct (rd : Reg) (dsp : Word) (s : State) : Result := logicalXor s rd (.mem (.drct dsp))

/-- XOR in mode Index (R156). -/
def execXorIndex (rd : Reg) (dsp : Word) (rx : Reg) (s : State) : Result := logicalXor s rd (.mem (.index dsp rx))

/-- XOR in mode Imm (R156). -/
def execXorImm (rd : Reg) (imm : Word) (s : State) : Result := logicalXor s rd (.imm imm)

/-- XOR in mode FP Rlt (R156). -/
def execXorFpRlt (rd : Reg) (dsp4 : Int) (s : State) : Result := logicalXor s rd (.mem (.fpRlt dsp4))

/-- XOR in mode Reg (R156). -/
def execXorReg (rd : Reg) (rs : Reg) (s : State) : Result := logicalXor s rd (.reg rs)

/-- XOR in mode Imm4 (R156). -/
def execXorImm4 (rd : Reg) (imm4 : Int) (s : State) : Result := logicalXor s rd (.imm4 imm4)

/-- XOR in mode Indr (R156). -/
def execXorIndr (rd : Reg) (rx : Reg) (s : State) : Result := logicalXor s rd (.mem (.indr rx))

/-- XOR in mode B Indr (R156). -/
def execXorBIndr (rd : Reg) (rx : Reg) (s : State) : Result := logicalXor s rd (.mem (.bIndr rx))

end Sys2Proof.Machine
end

