-- ==== Sys2Proof/Machine/Shift.lean ====
section
/-! DEFINITION. SHLA, SHLL, SHRA and SHRL (42_shift.md R170 to R174). -/

namespace Sys2Proof.Machine

/-- The common form of the shifts (R170): `r` is the instruction's function of the old Rd and a count below 16, `out` the
bit a one-bit shift moves out. A count of 16 or more leaves the result and V, C, S, Z free (log 9). -/
def shift (r : Word → Nat → Word) (out : Word → Bool) (s : State) (a b : Word) : Access AluResult :=
  .ok
    { value := if 16 ≤ b.toNat then Config.shiftBig s.draws else r a b.toNat
      flag :=
        if 16 ≤ b.toNat then s.flag.shiftBig s.draws
        else s.flag.shift s.draws b.toNat (out a) (r a b.toNat)
      drawn := 1 }

/-- The function of SHLA and SHLL (R171, R172): zeros enter at bit 0. -/
def shiftedLeft (a : Word) (n : Nat) : Word := a <<< n

/-- The function of SHRA (R173): copies of the sign enter at bit 15. -/
def shiftedRightArithmetic (a : Word) (n : Nat) : Word := a.sshiftRight n

/-- The function of SHRL (R174): zeros enter at bit 15. -/
def shiftedRightLogical (a : Word) (n : Nat) : Word := a >>> n

/-- The bit a left shift by one moves out, `a[15]` (R170, log 30). -/
def outLeft (a : Word) : Bool := a.getLsbD 15

/-- The bit a right shift by one moves out, `a[0]` (R170, log 30). -/
def outRight (a : Word) : Bool := a.getLsbD 0

/-- SHLA (R171). -/
def shiftLeftArithmetic (s : State) (rd : Reg) (m : Mode) : Result := twoOperand s rd m (shift shiftedLeft outLeft)

/-- SHLL (R172). -/
def shiftLeftLogical (s : State) (rd : Reg) (m : Mode) : Result := twoOperand s rd m (shift shiftedLeft outLeft)

/-- SHRA (R173). -/
def shiftRightArithmetic (s : State) (rd : Reg) (m : Mode) : Result :=
  twoOperand s rd m (shift shiftedRightArithmetic outRight)

/-- SHRL (R174). -/
def shiftRightLogical (s : State) (rd : Reg) (m : Mode) : Result :=
  twoOperand s rd m (shift shiftedRightLogical outRight)

/-! ### The rows of the opcode table -/

/-- SHLA in mode Drct (R171). -/
def execShlaDrct (rd : Reg) (dsp : Word) (s : State) : Result := shiftLeftArithmetic s rd (.mem (.drct dsp))

/-- SHLA in mode Index (R171). -/
def execShlaIndex (rd : Reg) (dsp : Word) (rx : Reg) (s : State) : Result := shiftLeftArithmetic s rd (.mem (.index dsp rx))

/-- SHLA in mode Imm (R171). -/
def execShlaImm (rd : Reg) (imm : Word) (s : State) : Result := shiftLeftArithmetic s rd (.imm imm)

/-- SHLA in mode FP Rlt (R171). -/
def execShlaFpRlt (rd : Reg) (dsp4 : Int) (s : State) : Result := shiftLeftArithmetic s rd (.mem (.fpRlt dsp4))

/-- SHLA in mode Reg (R171). -/
def execShlaReg (rd : Reg) (rs : Reg) (s : State) : Result := shiftLeftArithmetic s rd (.reg rs)

/-- SHLA in mode Imm4 (R171). -/
def execShlaImm4 (rd : Reg) (imm4 : Int) (s : State) : Result := shiftLeftArithmetic s rd (.imm4 imm4)

/-- SHLA in mode Indr (R171). -/
def execShlaIndr (rd : Reg) (rx : Reg) (s : State) : Result := shiftLeftArithmetic s rd (.mem (.indr rx))

/-- SHLA in mode B Indr (R171). -/
def execShlaBIndr (rd : Reg) (rx : Reg) (s : State) : Result := shiftLeftArithmetic s rd (.mem (.bIndr rx))

/-- SHLL in mode Drct (R172). -/
def execShllDrct (rd : Reg) (dsp : Word) (s : State) : Result := shiftLeftLogical s rd (.mem (.drct dsp))

/-- SHLL in mode Index (R172). -/
def execShllIndex (rd : Reg) (dsp : Word) (rx : Reg) (s : State) : Result := shiftLeftLogical s rd (.mem (.index dsp rx))

/-- SHLL in mode Imm (R172). -/
def execShllImm (rd : Reg) (imm : Word) (s : State) : Result := shiftLeftLogical s rd (.imm imm)

/-- SHLL in mode FP Rlt (R172). -/
def execShllFpRlt (rd : Reg) (dsp4 : Int) (s : State) : Result := shiftLeftLogical s rd (.mem (.fpRlt dsp4))

/-- SHLL in mode Reg (R172). -/
def execShllReg (rd : Reg) (rs : Reg) (s : State) : Result := shiftLeftLogical s rd (.reg rs)

/-- SHLL in mode Imm4 (R172). -/
def execShllImm4 (rd : Reg) (imm4 : Int) (s : State) : Result := shiftLeftLogical s rd (.imm4 imm4)

/-- SHLL in mode Indr (R172). -/
def execShllIndr (rd : Reg) (rx : Reg) (s : State) : Result := shiftLeftLogical s rd (.mem (.indr rx))

/-- SHLL in mode B Indr (R172). -/
def execShllBIndr (rd : Reg) (rx : Reg) (s : State) : Result := shiftLeftLogical s rd (.mem (.bIndr rx))

/-- SHRA in mode Drct (R173). -/
def execShraDrct (rd : Reg) (dsp : Word) (s : State) : Result := shiftRightArithmetic s rd (.mem (.drct dsp))

/-- SHRA in mode Index (R173). -/
def execShraIndex (rd : Reg) (dsp : Word) (rx : Reg) (s : State) : Result := shiftRightArithmetic s rd (.mem (.index dsp rx))

/-- SHRA in mode Imm (R173). -/
def execShraImm (rd : Reg) (imm : Word) (s : State) : Result := shiftRightArithmetic s rd (.imm imm)

/-- SHRA in mode FP Rlt (R173). -/
def execShraFpRlt (rd : Reg) (dsp4 : Int) (s : State) : Result := shiftRightArithmetic s rd (.mem (.fpRlt dsp4))

/-- SHRA in mode Reg (R173). -/
def execShraReg (rd : Reg) (rs : Reg) (s : State) : Result := shiftRightArithmetic s rd (.reg rs)

/-- SHRA in mode Imm4 (R173). -/
def execShraImm4 (rd : Reg) (imm4 : Int) (s : State) : Result := shiftRightArithmetic s rd (.imm4 imm4)

/-- SHRA in mode Indr (R173). -/
def execShraIndr (rd : Reg) (rx : Reg) (s : State) : Result := shiftRightArithmetic s rd (.mem (.indr rx))

/-- SHRA in mode B Indr (R173). -/
def execShraBIndr (rd : Reg) (rx : Reg) (s : State) : Result := shiftRightArithmetic s rd (.mem (.bIndr rx))

/-- SHRL in mode Drct (R174). -/
def execShrlDrct (rd : Reg) (dsp : Word) (s : State) : Result := shiftRightLogical s rd (.mem (.drct dsp))

/-- SHRL in mode Index (R174). -/
def execShrlIndex (rd : Reg) (dsp : Word) (rx : Reg) (s : State) : Result := shiftRightLogical s rd (.mem (.index dsp rx))

/-- SHRL in mode Imm (R174). -/
def execShrlImm (rd : Reg) (imm : Word) (s : State) : Result := shiftRightLogical s rd (.imm imm)

/-- SHRL in mode FP Rlt (R174). -/
def execShrlFpRlt (rd : Reg) (dsp4 : Int) (s : State) : Result := shiftRightLogical s rd (.mem (.fpRlt dsp4))

/-- SHRL in mode Reg (R174). -/
def execShrlReg (rd : Reg) (rs : Reg) (s : State) : Result := shiftRightLogical s rd (.reg rs)

/-- SHRL in mode Imm4 (R174). -/
def execShrlImm4 (rd : Reg) (imm4 : Int) (s : State) : Result := shiftRightLogical s rd (.imm4 imm4)

/-- SHRL in mode Indr (R174). -/
def execShrlIndr (rd : Reg) (rx : Reg) (s : State) : Result := shiftRightLogical s rd (.mem (.indr rx))

/-- SHRL in mode B Indr (R174). -/
def execShrlBIndr (rd : Reg) (rx : Reg) (s : State) : Result := shiftRightLogical s rd (.mem (.bIndr rx))

end Sys2Proof.Machine
end

