-- ==== Sys2Proof/Machine/Stack.lean ====
section
/-! DEFINITION. PUSH, POP, RET and RETI (45_stack_return.md R210 to R213). -/

namespace Sys2Proof.Machine

/-- PUSH (R210): refused where Rd names the stack pointer in use (log 26). -/
def pushRegister (s : State) (rd : Reg) : Result :=
  if namesStackPointer s rd then finish (.error (.refusal .stackPointerOperand))
  else
    match push s (readReg s rd) with
    | .ok t => .next { t with pc := nextOne s }
    | .error e => finish (.error e)

/-- POP (R211): refused where Rd names the stack pointer in use (log 26). -/
def popRegister (s : State) (rd : Reg) : Result :=
  if namesStackPointer s rd then finish (.error (.refusal .stackPointerOperand))
  else
    match pop s with
    | .ok (v, t) => .next { writeReg t rd v with pc := nextOne s }
    | .error e => finish (.error e)

/-- RET (R212). -/
def returnFromSubroutine (s : State) : Result :=
  match pop s with
  | .ok (v, t) => .next { t with pc := v }
  | .error e => finish (.error e)

/-- RETI (R213), the return from a trap. -/
def returnFromInterrupt (s : State) : Result := finish (trapReturn s)

/-! ### The rows of the opcode table -/

/-- PUSH (R210). -/
def execPush (rd : Reg) (s : State) : Result := pushRegister s rd

/-- POP (R211). -/
def execPop (rd : Reg) (s : State) : Result := popRegister s rd

/-- RET (R212). -/
def execRet (s : State) : Result := returnFromSubroutine s

/-- RETI (R213). -/
def execReti (s : State) : Result := returnFromInterrupt s

end Sys2Proof.Machine
end

