-- ==== Sys2Proof/Machine/System.lean ====
section
/-! DEFINITION. SVC and HALT (46_system.md R220, R221). -/

namespace Sys2Proof.Machine

/-- SVC (R220): the trap through FFFEh, in either mode, saving the address after it. -/
def supervisorCall (s : State) : Result := finish (trapEntry s svcEntry (nextOne s))

/-- HALT (R221): privileged; the CPU stops with PC at `next` (log 20). -/
def halt (s : State) : Result :=
  if !s.flag.p then privilegeViolation s else .next { s with pc := nextOne s, halted := true }

/-! ### The rows of the opcode table -/

/-- SVC (R220). -/
def execSvc (s : State) : Result := supervisorCall s

/-- HALT (R221). -/
def execHalt (s : State) : Result := halt s

end Sys2Proof.Machine
end

