-- ==== Sys2Proof/Machine/Dispatch.lean ====
section
/-! DEFINITION. One arm for each row of the opcode table, each a direct call of its meaning. -/

namespace Sys2Proof.Machine

def exec (i : Instr) (s : State) : Host.Outcome State Fault Refusal :=
  match i with
  | .no => Sys2Proof.Machine.execNo s
  | .ldDrct rd dsp => Sys2Proof.Machine.execLdDrct rd dsp s
  | .ldIndex rd dsp rx => Sys2Proof.Machine.execLdIndex rd dsp rx s
  | .ldImm rd imm => Sys2Proof.Machine.execLdImm rd imm s
  | .ldFpRlt rd dsp4 => Sys2Proof.Machine.execLdFpRlt rd dsp4 s
  | .ldReg rd rs => Sys2Proof.Machine.execLdReg rd rs s
  | .ldImm4 rd imm4 => Sys2Proof.Machine.execLdImm4 rd imm4 s
  | .ldIndr rd rx => Sys2Proof.Machine.execLdIndr rd rx s
  | .ldBIndr rd rx => Sys2Proof.Machine.execLdBIndr rd rx s
  | .stDrct rd dsp => Sys2Proof.Machine.execStDrct rd dsp s
  | .stIndex rd dsp rx => Sys2Proof.Machine.execStIndex rd dsp rx s
  | .stFpRlt rd dsp4 => Sys2Proof.Machine.execStFpRlt rd dsp4 s
  | .stIndr rd rx => Sys2Proof.Machine.execStIndr rd rx s
  | .stBIndr rd rx => Sys2Proof.Machine.execStBIndr rd rx s
  | .addDrct rd dsp => Sys2Proof.Machine.execAddDrct rd dsp s
  | .addIndex rd dsp rx => Sys2Proof.Machine.execAddIndex rd dsp rx s
  | .addImm rd imm => Sys2Proof.Machine.execAddImm rd imm s
  | .addFpRlt rd dsp4 => Sys2Proof.Machine.execAddFpRlt rd dsp4 s
  | .addReg rd rs => Sys2Proof.Machine.execAddReg rd rs s
  | .addImm4 rd imm4 => Sys2Proof.Machine.execAddImm4 rd imm4 s
  | .addIndr rd rx => Sys2Proof.Machine.execAddIndr rd rx s
  | .addBIndr rd rx => Sys2Proof.Machine.execAddBIndr rd rx s
  | .subDrct rd dsp => Sys2Proof.Machine.execSubDrct rd dsp s
  | .subIndex rd dsp rx => Sys2Proof.Machine.execSubIndex rd dsp rx s
  | .subImm rd imm => Sys2Proof.Machine.execSubImm rd imm s
  | .subFpRlt rd dsp4 => Sys2Proof.Machine.execSubFpRlt rd dsp4 s
  | .subReg rd rs => Sys2Proof.Machine.execSubReg rd rs s
  | .subImm4 rd imm4 => Sys2Proof.Machine.execSubImm4 rd imm4 s
  | .subIndr rd rx => Sys2Proof.Machine.execSubIndr rd rx s
  | .subBIndr rd rx => Sys2Proof.Machine.execSubBIndr rd rx s
  | .cmpDrct rd dsp => Sys2Proof.Machine.execCmpDrct rd dsp s
  | .cmpIndex rd dsp rx => Sys2Proof.Machine.execCmpIndex rd dsp rx s
  | .cmpImm rd imm => Sys2Proof.Machine.execCmpImm rd imm s
  | .cmpFpRlt rd dsp4 => Sys2Proof.Machine.execCmpFpRlt rd dsp4 s
  | .cmpReg rd rs => Sys2Proof.Machine.execCmpReg rd rs s
  | .cmpImm4 rd imm4 => Sys2Proof.Machine.execCmpImm4 rd imm4 s
  | .cmpIndr rd rx => Sys2Proof.Machine.execCmpIndr rd rx s
  | .cmpBIndr rd rx => Sys2Proof.Machine.execCmpBIndr rd rx s
  | .andDrct rd dsp => Sys2Proof.Machine.execAndDrct rd dsp s
  | .andIndex rd dsp rx => Sys2Proof.Machine.execAndIndex rd dsp rx s
  | .andImm rd imm => Sys2Proof.Machine.execAndImm rd imm s
  | .andFpRlt rd dsp4 => Sys2Proof.Machine.execAndFpRlt rd dsp4 s
  | .andReg rd rs => Sys2Proof.Machine.execAndReg rd rs s
  | .andImm4 rd imm4 => Sys2Proof.Machine.execAndImm4 rd imm4 s
  | .andIndr rd rx => Sys2Proof.Machine.execAndIndr rd rx s
  | .andBIndr rd rx => Sys2Proof.Machine.execAndBIndr rd rx s
  | .orDrct rd dsp => Sys2Proof.Machine.execOrDrct rd dsp s
  | .orIndex rd dsp rx => Sys2Proof.Machine.execOrIndex rd dsp rx s
  | .orImm rd imm => Sys2Proof.Machine.execOrImm rd imm s
  | .orFpRlt rd dsp4 => Sys2Proof.Machine.execOrFpRlt rd dsp4 s
  | .orReg rd rs => Sys2Proof.Machine.execOrReg rd rs s
  | .orImm4 rd imm4 => Sys2Proof.Machine.execOrImm4 rd imm4 s
  | .orIndr rd rx => Sys2Proof.Machine.execOrIndr rd rx s
  | .orBIndr rd rx => Sys2Proof.Machine.execOrBIndr rd rx s
  | .xorDrct rd dsp => Sys2Proof.Machine.execXorDrct rd dsp s
  | .xorIndex rd dsp rx => Sys2Proof.Machine.execXorIndex rd dsp rx s
  | .xorImm rd imm => Sys2Proof.Machine.execXorImm rd imm s
  | .xorFpRlt rd dsp4 => Sys2Proof.Machine.execXorFpRlt rd dsp4 s
  | .xorReg rd rs => Sys2Proof.Machine.execXorReg rd rs s
  | .xorImm4 rd imm4 => Sys2Proof.Machine.execXorImm4 rd imm4 s
  | .xorIndr rd rx => Sys2Proof.Machine.execXorIndr rd rx s
  | .xorBIndr rd rx => Sys2Proof.Machine.execXorBIndr rd rx s
  | .addsDrct rd dsp => Sys2Proof.Machine.execAddsDrct rd dsp s
  | .addsIndex rd dsp rx => Sys2Proof.Machine.execAddsIndex rd dsp rx s
  | .addsImm rd imm => Sys2Proof.Machine.execAddsImm rd imm s
  | .addsFpRlt rd dsp4 => Sys2Proof.Machine.execAddsFpRlt rd dsp4 s
  | .addsReg rd rs => Sys2Proof.Machine.execAddsReg rd rs s
  | .addsImm4 rd imm4 => Sys2Proof.Machine.execAddsImm4 rd imm4 s
  | .addsIndr rd rx => Sys2Proof.Machine.execAddsIndr rd rx s
  | .addsBIndr rd rx => Sys2Proof.Machine.execAddsBIndr rd rx s
  | .mulDrct rd dsp => Sys2Proof.Machine.execMulDrct rd dsp s
  | .mulIndex rd dsp rx => Sys2Proof.Machine.execMulIndex rd dsp rx s
  | .mulImm rd imm => Sys2Proof.Machine.execMulImm rd imm s
  | .mulFpRlt rd dsp4 => Sys2Proof.Machine.execMulFpRlt rd dsp4 s
  | .mulReg rd rs => Sys2Proof.Machine.execMulReg rd rs s
  | .mulImm4 rd imm4 => Sys2Proof.Machine.execMulImm4 rd imm4 s
  | .mulIndr rd rx => Sys2Proof.Machine.execMulIndr rd rx s
  | .mulBIndr rd rx => Sys2Proof.Machine.execMulBIndr rd rx s
  | .divDrct rd dsp => Sys2Proof.Machine.execDivDrct rd dsp s
  | .divIndex rd dsp rx => Sys2Proof.Machine.execDivIndex rd dsp rx s
  | .divImm rd imm => Sys2Proof.Machine.execDivImm rd imm s
  | .divFpRlt rd dsp4 => Sys2Proof.Machine.execDivFpRlt rd dsp4 s
  | .divReg rd rs => Sys2Proof.Machine.execDivReg rd rs s
  | .divImm4 rd imm4 => Sys2Proof.Machine.execDivImm4 rd imm4 s
  | .divIndr rd rx => Sys2Proof.Machine.execDivIndr rd rx s
  | .divBIndr rd rx => Sys2Proof.Machine.execDivBIndr rd rx s
  | .modDrct rd dsp => Sys2Proof.Machine.execModDrct rd dsp s
  | .modIndex rd dsp rx => Sys2Proof.Machine.execModIndex rd dsp rx s
  | .modImm rd imm => Sys2Proof.Machine.execModImm rd imm s
  | .modFpRlt rd dsp4 => Sys2Proof.Machine.execModFpRlt rd dsp4 s
  | .modReg rd rs => Sys2Proof.Machine.execModReg rd rs s
  | .modImm4 rd imm4 => Sys2Proof.Machine.execModImm4 rd imm4 s
  | .modIndr rd rx => Sys2Proof.Machine.execModIndr rd rx s
  | .modBIndr rd rx => Sys2Proof.Machine.execModBIndr rd rx s
  | .shlaDrct rd dsp => Sys2Proof.Machine.execShlaDrct rd dsp s
  | .shlaIndex rd dsp rx => Sys2Proof.Machine.execShlaIndex rd dsp rx s
  | .shlaImm rd imm => Sys2Proof.Machine.execShlaImm rd imm s
  | .shlaFpRlt rd dsp4 => Sys2Proof.Machine.execShlaFpRlt rd dsp4 s
  | .shlaReg rd rs => Sys2Proof.Machine.execShlaReg rd rs s
  | .shlaImm4 rd imm4 => Sys2Proof.Machine.execShlaImm4 rd imm4 s
  | .shlaIndr rd rx => Sys2Proof.Machine.execShlaIndr rd rx s
  | .shlaBIndr rd rx => Sys2Proof.Machine.execShlaBIndr rd rx s
  | .shllDrct rd dsp => Sys2Proof.Machine.execShllDrct rd dsp s
  | .shllIndex rd dsp rx => Sys2Proof.Machine.execShllIndex rd dsp rx s
  | .shllImm rd imm => Sys2Proof.Machine.execShllImm rd imm s
  | .shllFpRlt rd dsp4 => Sys2Proof.Machine.execShllFpRlt rd dsp4 s
  | .shllReg rd rs => Sys2Proof.Machine.execShllReg rd rs s
  | .shllImm4 rd imm4 => Sys2Proof.Machine.execShllImm4 rd imm4 s
  | .shllIndr rd rx => Sys2Proof.Machine.execShllIndr rd rx s
  | .shllBIndr rd rx => Sys2Proof.Machine.execShllBIndr rd rx s
  | .shraDrct rd dsp => Sys2Proof.Machine.execShraDrct rd dsp s
  | .shraIndex rd dsp rx => Sys2Proof.Machine.execShraIndex rd dsp rx s
  | .shraImm rd imm => Sys2Proof.Machine.execShraImm rd imm s
  | .shraFpRlt rd dsp4 => Sys2Proof.Machine.execShraFpRlt rd dsp4 s
  | .shraReg rd rs => Sys2Proof.Machine.execShraReg rd rs s
  | .shraImm4 rd imm4 => Sys2Proof.Machine.execShraImm4 rd imm4 s
  | .shraIndr rd rx => Sys2Proof.Machine.execShraIndr rd rx s
  | .shraBIndr rd rx => Sys2Proof.Machine.execShraBIndr rd rx s
  | .shrlDrct rd dsp => Sys2Proof.Machine.execShrlDrct rd dsp s
  | .shrlIndex rd dsp rx => Sys2Proof.Machine.execShrlIndex rd dsp rx s
  | .shrlImm rd imm => Sys2Proof.Machine.execShrlImm rd imm s
  | .shrlFpRlt rd dsp4 => Sys2Proof.Machine.execShrlFpRlt rd dsp4 s
  | .shrlReg rd rs => Sys2Proof.Machine.execShrlReg rd rs s
  | .shrlImm4 rd imm4 => Sys2Proof.Machine.execShrlImm4 rd imm4 s
  | .shrlIndr rd rx => Sys2Proof.Machine.execShrlIndr rd rx s
  | .shrlBIndr rd rx => Sys2Proof.Machine.execShrlBIndr rd rx s
  | .jzDrct dsp => Sys2Proof.Machine.execJzDrct dsp s
  | .jzIndex dsp rx => Sys2Proof.Machine.execJzIndex dsp rx s
  | .jcDrct dsp => Sys2Proof.Machine.execJcDrct dsp s
  | .jcIndex dsp rx => Sys2Proof.Machine.execJcIndex dsp rx s
  | .jmDrct dsp => Sys2Proof.Machine.execJmDrct dsp s
  | .jmIndex dsp rx => Sys2Proof.Machine.execJmIndex dsp rx s
  | .joDrct dsp => Sys2Proof.Machine.execJoDrct dsp s
  | .joIndex dsp rx => Sys2Proof.Machine.execJoIndex dsp rx s
  | .jgtDrct dsp => Sys2Proof.Machine.execJgtDrct dsp s
  | .jgtIndex dsp rx => Sys2Proof.Machine.execJgtIndex dsp rx s
  | .jgeDrct dsp => Sys2Proof.Machine.execJgeDrct dsp s
  | .jgeIndex dsp rx => Sys2Proof.Machine.execJgeIndex dsp rx s
  | .jleDrct dsp => Sys2Proof.Machine.execJleDrct dsp s
  | .jleIndex dsp rx => Sys2Proof.Machine.execJleIndex dsp rx s
  | .jltDrct dsp => Sys2Proof.Machine.execJltDrct dsp s
  | .jltIndex dsp rx => Sys2Proof.Machine.execJltIndex dsp rx s
  | .jnzDrct dsp => Sys2Proof.Machine.execJnzDrct dsp s
  | .jnzIndex dsp rx => Sys2Proof.Machine.execJnzIndex dsp rx s
  | .jncDrct dsp => Sys2Proof.Machine.execJncDrct dsp s
  | .jncIndex dsp rx => Sys2Proof.Machine.execJncIndex dsp rx s
  | .jnmDrct dsp => Sys2Proof.Machine.execJnmDrct dsp s
  | .jnmIndex dsp rx => Sys2Proof.Machine.execJnmIndex dsp rx s
  | .jnoDrct dsp => Sys2Proof.Machine.execJnoDrct dsp s
  | .jnoIndex dsp rx => Sys2Proof.Machine.execJnoIndex dsp rx s
  | .jhiDrct dsp => Sys2Proof.Machine.execJhiDrct dsp s
  | .jhiIndex dsp rx => Sys2Proof.Machine.execJhiIndex dsp rx s
  | .jlsDrct dsp => Sys2Proof.Machine.execJlsDrct dsp s
  | .jlsIndex dsp rx => Sys2Proof.Machine.execJlsIndex dsp rx s
  | .jmpDrct dsp => Sys2Proof.Machine.execJmpDrct dsp s
  | .jmpIndex dsp rx => Sys2Proof.Machine.execJmpIndex dsp rx s
  | .callDrct dsp => Sys2Proof.Machine.execCallDrct dsp s
  | .callIndex dsp rx => Sys2Proof.Machine.execCallIndex dsp rx s
  | .inDrct rd dsp => Sys2Proof.Machine.execInDrct rd dsp s
  | .inIndr rd rx => Sys2Proof.Machine.execInIndr rd rx s
  | .outDrct rd dsp => Sys2Proof.Machine.execOutDrct rd dsp s
  | .outIndr rd rx => Sys2Proof.Machine.execOutIndr rd rx s
  | .push rd => Sys2Proof.Machine.execPush rd s
  | .pop rd => Sys2Proof.Machine.execPop rd s
  | .ret => Sys2Proof.Machine.execRet s
  | .reti => Sys2Proof.Machine.execReti s
  | .svc => Sys2Proof.Machine.execSvc s
  | .halt => Sys2Proof.Machine.execHalt s

end Sys2Proof.Machine
end

