-- ==== Sys2Proof/Machine/Fetch.lean ====
section
/-! DEFINITION. Fetching and decoding the instruction at PC (30_encoding.md R117, R119), and placing an instruction where
the next step fetches it. -/

namespace Sys2Proof.Machine

/-- Why a first word gives no instruction: the fault IllegalInstruction (60_exceptions.md R234) or a refusal
(30_encoding.md R125). Log 16. -/
def undecodable (w1 : Word) : WordError → Stop
  | .illegal => .fault (.illegalInstruction w1)
  | .fixedField => .refusal (.fixedField w1)

/-- The words at PC: the first, and the second where the first word says there is one (30_encoding.md R100, R116). A
one-word instruction is given a second word of zeros, which it does not use. -/
def fetchWords (s : State) : Access (Word × Word) :=
  match readWord s s.pc with
  | .ok w1 =>
    if hasSecondWord w1 then
      match readWord s (s.pc + 2#16) with
      | .ok w2 => .ok (w1, w2)
      | .error e => .error e
    else .ok (w1, 0#16)
  | .error e => .error e

/-- The instruction at PC. -/
def fetch (s : State) : Access Instr :=
  match fetchWords s with
  | .ok (w1, w2) =>
    match decodeWords w1 w2 with
    | .ok i => .ok i
    | .error e => .error (undecodable w1 e)
  | .error e => .error e

/-- The bytes `bs` written from address `a` on, wrapping at FFFFh. -/
def storeBytes (m : Memory) (a : Word) : List Byte → Memory
  | [] => m
  | b :: rest => storeBytes (Memory.store m a.toNat b) (a + 1#16) rest

/-- `s` with the bytes `bs` where its next step fetches: PC made even, the bytes in RAM there, the IPL ROM detached (what it
covers is open), and nothing in the way of the fetch (not halted, MMU off, no interrupt at the boundary). -/
def placeAtPc (s : State) (bs : List Byte) : State :=
  let a := s.pc &&& 0xFFFE#16
  { s with
    pc := a
    mem := storeBytes s.mem a bs
    iplAttached := false
    halted := false
    mmuEnable := false
    interrupts := if (interruptTaken s).isSome then [] else s.interrupts }

end Sys2Proof.Machine
end

