-- ==== Sys2Proof/Machine/Step.lean ====
section
/-! DEFINITION. The instruction cycle (30_encoding.md R119). -/

namespace Sys2Proof.Machine

/-- One step (30_encoding.md R119): none if halted; refused with the MMU enabled (20_memory.md R85); otherwise an interrupt
if the environment delivers one at this boundary, or the instruction at PC. One instruction is done before the next is
fetched (log 23), and nobody but the CPU has a move (log 38). -/
def step (s : State) : Host.Outcome State Fault Refusal :=
  if s.halted then .fault .halted
  else if s.mmuEnable then .refused .mmuEnabled
  else
    match interruptTaken s with
    | some src => takeInterrupt (passBoundary s) src
    | none =>
      match fetch (passBoundary s) with
      | .ok i => exec i (passBoundary s)
      | .error e => finish (.error e)

/-- `s` with the instruction of an opcode-table word where its next step fetches it (log 35). -/
def State.withFetchWord (s : State) (nbits w : Nat) : State := placeAtPc s (tableBytes nbits w)

end Sys2Proof.Machine
end

