-- ==== Sys2Proof/Safety.lean ====
section
/-! DEFINITION. The terms the statements use: when an access may be made, what an instruction leaves alone, and the
invariant of the machine. -/

namespace Sys2Proof.Machine

/-! ### When an access may be made -/

/-- A word can be read at `a`: the MMU is off and the address even (20_memory.md R64, R67, R85). -/
def WordReadable (s : State) (a : Word) : Prop := s.mmuEnable = false ∧ isOdd a = false

/-- A byte can be written at `a`: the MMU is off and `a` is RAM (20_memory.md R65). -/
def ByteWritable (s : State) (a : Word) : Prop := s.mmuEnable = false ∧ inIplRom s a = false

/-- A word can be written at `a`: the MMU is off, `a` even, and its two bytes RAM (20_memory.md R65, R67). -/
def WordWritable (s : State) (a : Word) : Prop :=
  s.mmuEnable = false ∧ isOdd a = false ∧ inIplRom s a = false ∧ inIplRom s (a + 1#16) = false

/-- The region of IPL_IMAGE (20_memory.md R78): its base address, at most E000h, and its end, at least FFE0h, are open
(the spec's decision D27, log 25). -/
def InIplRegion (a : Word) : Prop := Config.iplBase.val ≤ a.toNat ∧ a.toNat < 0xFFE0 + Config.iplVectorBytes.val

/-- The operand of a mode can be read: a memory word at an even address, a memory byte anywhere, the MMU off; the other
modes always (30_encoding.md R112). -/
def OperandReadable (s : State) : Mode → Prop
  | .mem (.drct dsp) => WordReadable s dsp
  | .mem (.index dsp rx) => WordReadable s (dsp + readReg s rx)
  | .mem (.fpRlt dsp4) => WordReadable s (BitVec.ofInt 16 dsp4 + s.fp)
  | .mem (.indr rx) => WordReadable s (readReg s rx)
  | .mem (.bIndr _) => s.mmuEnable = false
  | .imm _ => True
  | .reg _ => True
  | .imm4 _ => True

/-- The 16-bit operand of a mode (30_encoding.md R112). -/
def operandValue (s : State) : Mode → Word
  | .mem (.drct dsp) => physWord s dsp
  | .mem (.index dsp rx) => physWord s (dsp + readReg s rx)
  | .mem (.fpRlt dsp4) => physWord s (BitVec.ofInt 16 dsp4 + s.fp)
  | .mem (.indr rx) => physWord s (readReg s rx)
  | .mem (.bIndr rx) => (physByte s (readReg s rx)).setWidth 16
  | .imm v => v
  | .reg rs => readReg s rs
  | .imm4 v => BitVec.ofInt 16 v

/-- Room for one word on the stack in use: the word below the stack pointer can be written (20_memory.md R70). -/
def CanPush (s : State) : Prop := WordWritable s (stackPointer s - 2#16)

/-- Room for a trap frame: the two words below SSP can be written (60_exceptions.md R245). -/
def CanTrap (s : State) : Prop := WordWritable s (s.ssp - 2#16) ∧ WordWritable s (s.ssp - 4#16)

/-! ### What is left alone -/

/-- The storage behind the register codes but for FLAG (10_state.md R20 to R22): SP is SSP or USP, so codes Dh and Eh can
name one cell. -/
inductive RegCell where
  | g (i : Fin 12)
  | fp
  | ssp
  | usp
  deriving DecidableEq, Repr

/-- The contents of a register cell. -/
def cellValue (s : State) : RegCell → Word
  | .g i => s.g.get i
  | .fp => s.fp
  | .ssp => s.ssp
  | .usp => s.usp

/-- The cell a register code names while FLAG.P is `p`, none for FLAG (10_state.md R27). -/
def cellOf (p : Bool) : Reg → Option RegCell
  | .g i => some (.g i)
  | .fp => some .fp
  | .sp => if p then some .ssp else some .usp
  | .usp => some .usp
  | .flag => none

/-- The cell of the stack pointer in use while FLAG.P is `p` (10_state.md R23). -/
def stackCell (p : Bool) : RegCell := if p then .ssp else .usp

/-- Every register cell but those in `cs` holds what it held. -/
def SameCellsBut (cs : List RegCell) (s t : State) : Prop := ∀ c, c ∉ cs → cellValue t c = cellValue s c

/-- The cells that an instruction with destination `rd` writes. -/
def destCells (p : Bool) (rd : Reg) : List RegCell := (cellOf p rd).toList

/-- Every byte of memory but those at the addresses in `as` reads as it did. -/
def SameBytesBut (as : List Word) (s t : State) : Prop := ∀ a, a ∉ as → physByte t a = physByte s a

/-- E, P, I and U are as they were. -/
def SameControlFlags (f g : Flag) : Prop := g.e = f.e ∧ g.p = f.p ∧ g.i = f.i ∧ g.u = f.u

/-- The I/O side of the machine is as it was: the IPL switch, the MMU registers, the TLB, the device registers and the
output events. -/
def SameIo (s t : State) : Prop :=
  t.iplAttached = s.iplAttached ∧ t.mmuEnable = s.mmuEnable ∧ t.violationAddr = s.violationAddr ∧
    t.badAddr = s.badAddr ∧ t.memVio = s.memVio ∧ t.pageTable = s.pageTable ∧ t.pageNumber = s.pageNumber ∧
    t.tlb = s.tlb ∧ t.dev = s.dev ∧ t.outputs = s.outputs

/-- The CPU is halted or not as it was, and the environment's supply is as it was. -/
def SameRun (s t : State) : Prop := t.halted = s.halted ∧ t.interrupts = s.interrupts

/-- What an instruction `Rd,EA` with destination register `rd` leaves alone and where PC goes: every other register, E, P, I
and U, all of memory, the I/O side. -/
def TwoOperandFrame (s t : State) (rd : Reg) (m : Mode) : Prop :=
  SameCellsBut (destCells s.flag.p rd) s t ∧ SameControlFlags s.flag t.flag ∧ SameBytesBut [] s t ∧ SameIo s t ∧
    SameRun s t ∧ t.pc = s.pc + modeBytes m

/-- S and Z are those of the result `r` (41_arithmetic_logic.md R150). -/
def SignZeroOf (f : Flag) (r : Word) : Prop := (f.z = true ↔ r = 0#16) ∧ (f.s = true ↔ r.toInt < 0)

/-- `g` is FLAG `f` after the word `v` is written to it (10_state.md R32): U, V, C, S, Z from bits 4:0; E, P, I from bits
7:5 in privileged mode and unchanged in user mode. -/
def FlagWritten (f g : Flag) (v : Word) : Prop :=
  g.u = v.getLsbD 4 ∧ g.v = v.getLsbD 3 ∧ g.c = v.getLsbD 2 ∧ g.s = v.getLsbD 1 ∧ g.z = v.getLsbD 0 ∧
    (f.p = true → g.e = v.getLsbD 7 ∧ g.p = v.getLsbD 6 ∧ g.i = v.getLsbD 5) ∧
    (f.p = false → g.e = f.e ∧ g.p = false ∧ g.i = f.i)

/-- The condition of each jump, as 43_jump_call.md R181 to R195 state it. -/
def JumpCondition (f : Flag) : Cond → Prop
  | .jz => f.z = true
  | .jc => f.c = true
  | .jm => f.s = true
  | .jo => f.v = true
  | .jgt => ¬ (f.z = true ∨ f.s ≠ f.v)
  | .jge => f.s = f.v
  | .jle => f.z = true ∨ f.s ≠ f.v
  | .jlt => f.s ≠ f.v
  | .jnz => f.z = false
  | .jnc => f.c = false
  | .jnm => f.s = false
  | .jno => f.v = false
  | .jhi => ¬ (f.z = true ∨ f.c = true)
  | .jls => f.z = true ∨ f.c = true
  | .jmp => True

/-- Where a jump or a CALL goes (43_jump_call.md R180, R196). -/
def jumpGoal (s : State) : Target → Word
  | .drct dsp => dsp
  | .index dsp rx => dsp + readReg s rx

/-- How many bytes an IN or OUT has (30_encoding.md R116). -/
def ioLength : PortMode → Word
  | .drct _ => 4#16
  | .indr _ => 2#16

/-- `t` is `s` after a trap through the vector at `vec` that saves `saved` (60_exceptions.md R245): P set, E cleared, the
rest of FLAG as it was; SSP down by 4 with the saved PC above the old FLAG; PC the word at the vector; nothing else
changed. -/
def TrapTaken (s t : State) (vec saved : Word) : Prop :=
  t.flag = { s.flag with p := true, e := false } ∧ t.ssp = s.ssp - 4#16 ∧ SameCellsBut [.ssp] s t ∧
    physWord t (s.ssp - 2#16) = saved ∧ physWord t (s.ssp - 4#16) = s.flag.toWord ∧
    SameBytesBut [s.ssp - 4#16, s.ssp - 3#16, s.ssp - 2#16, s.ssp - 1#16] s t ∧ t.pc = physWord t vec ∧ SameIo s t ∧
    t.halted = s.halted ∧ t.draws = s.draws

/-- The device registers after an OUT of `v` to row `n`, register by register with the row of the I/O map that writes it
(60_exceptions.md R260, R262 to R267, R270 to R272): the whole word on a 16-bit row, the low byte on an 8-bit row, bits 3:0
for RN4020-Cmd. Every other register keeps its value. -/
def DevicesAfterOut (d e : Devices) (n : Nat) (v : Word) : Prop :=
  e.timer0Period = (if n = 0x00 then v else d.timer0Period) ∧
    e.timer0Control = (if n = 0x02 then v else d.timer0Control) ∧
    e.timer1Period = (if n = 0x04 then v else d.timer1Period) ∧
    e.timer1Control = (if n = 0x06 then v else d.timer1Control) ∧
    e.ft232rlData = (if n = 0x08 then wordLo v else d.ft232rlData) ∧
    e.ft232rlControl = (if n = 0x0A then wordLo v else d.ft232rlControl) ∧
    e.tecData = (if n = 0x0C then wordLo v else d.tecData) ∧
    e.tecControl = (if n = 0x0E then wordLo v else d.tecControl) ∧
    e.usdControl = (if n = 0x10 then wordLo v else d.usdControl) ∧
    e.usdMemAddr = (if n = 0x12 then v else d.usdMemAddr) ∧
    e.usdBlkAddrH = (if n = 0x14 then v else d.usdBlkAddrH) ∧
    e.usdBlkAddrL = (if n = 0x16 then v else d.usdBlkAddrL) ∧
    e.ioPort = (if n = 0x18 then wordLo v else d.ioPort) ∧
    e.adcReference = (if n = 0x1A then wordLo v else d.adcReference) ∧
    e.outputPortHi = (if n = 0x1C then wordLo v else d.outputPortHi) ∧
    e.spiData = (if n = 0x20 then wordLo v else d.spiData) ∧
    e.spiSclk = (if n = 0x22 then wordLo v else d.spiSclk) ∧
    e.pioMask = (if n = 0x24 then wordLo v else d.pioMask) ∧
    e.pioXor = (if n = 0x26 then wordLo v else d.pioXor) ∧
    e.rn4020Data = (if n = 0x28 then wordLo v else d.rn4020Data) ∧
    e.rn4020Control = (if n = 0x2A then wordLo v else d.rn4020Control) ∧
    e.rn4020Cmd = (if n = 0x2C then v.extractLsb' 0 4 else d.rn4020Cmd) ∧
    e.rn4020CmdWritten = (if n = 0x2C then true else d.rn4020CmdWritten) ∧
    e.rn4020Ram = (if n = 0x2E then wordLo v else d.rn4020Ram) ∧
    e.tecDataSw = (if n = 0x32 then wordLo v else d.tecDataSw) ∧
    e.tecFunctionSw = (if n = 0x34 then wordLo v else d.tecFunctionSw) ∧
    e.tecOperation = (if n = 0x36 then wordLo v else d.tecOperation) ∧
    e.consoleData = (if n = 0xF8 then v else d.consoleData)

/-! ### First words -/

/-- The undefined first words, as 30_encoding.md R123 lists them under (a) to (i). -/
def UndefinedFirstWord (w1 : Word) : Prop :=
  let op := w1.toNat / 256
  let rd := w1.toNat / 16 % 16
  op / 8 ∈ [0b01101, 0b01110, 0b01111, 0b11001, 0b11011, 0b11100, 0b11101] ∨
    (0x01 ≤ op ∧ op ≤ 0x07) ∨
    op ∈ [0x12, 0x14, 0x15] ∨
    ((0xA2 ≤ op ∧ op ≤ 0xA7) ∨ (0xAA ≤ op ∧ op ≤ 0xAF)) ∨
    ((0xB1 ≤ op ∧ op ≤ 0xB5) ∨ op = 0xB7 ∨ (0xB9 ≤ op ∧ op ≤ 0xBD) ∨ op = 0xBF) ∨
    ((0xC1 ≤ op ∧ op ≤ 0xC3) ∨ (0xC5 ≤ op ∧ op ≤ 0xC7)) ∨
    ((0xD1 ≤ op ∧ op ≤ 0xD3) ∨ (0xD5 ≤ op ∧ op ≤ 0xD7)) ∨
    ((0xF1 ≤ op ∧ op ≤ 0xF7) ∨ (0xF8 ≤ op ∧ op ≤ 0xFE)) ∨
    (op ∈ [0xA0, 0xA1] ∧ rd = 0xD)

/-- The fixed fields of 30_encoding.md R122 have their values. -/
def FixedFieldsHold (w1 : Word) : Prop :=
  let op := w1.toNat / 256
  let rd := w1.toNat / 16 % 16
  let rx := w1.toNat % 16
  (op ∈ [0x00, 0xD0, 0xF0, 0xFF] → rd = 0 ∧ rx = 0) ∧
    (op ∈ [0xA8, 0xA9] → rd = 0) ∧
    (op ∈ [0xC0, 0xC4] → rx = 0) ∧
    (op = 0xD4 → rd = 0xF ∧ rx = 0) ∧
    (0x08 ≤ op ∧ op < 0xC0 ∧ (op % 8 = 0 ∨ op % 8 = 2) → rx = 0)

/-! ### The invariant -/

/-- An output event is at an even row, and for an 8-bit row only the low byte reached the device (20_memory.md R73, R75). -/
def eventOk (e : IoEvent) : Bool :=
  decide (e.row.toNat % 2 = 0) && (!isByteRow e.row || decide (wordHi e.value = 0#8))

/-- What every step keeps: memory in canonical form, the MMU off (20_memory.md R85), no microSD operation started (R92), and
every output event one that can have been made. -/
def State.wf (s : State) : Bool :=
  Memory.wf s.mem && !s.mmuEnable && decide (s.dev.usdControl.setWidth 3 = 0#3) && s.outputs.all eventOk

/-! ### Runs -/

/-- `t` is the state after one step from `s`. -/
def StepsTo (s t : State) : Prop := step s = .next t

/-- The states a run from `s` passes through. -/
inductive Reaches (s : State) : State → Prop
  | start : Reaches s s
  | more (t u : State) : Reaches s t → StepsTo t u → Reaches s u

/-- A run from `s` is safe: no state it reaches stops in a model fault or a refusal; it may end halted. -/
def SafeRun (s : State) : Prop :=
  ∀ t, Reaches s t → (∃ u, StepsTo t u) ∨ t.halted = true

end Sys2Proof.Machine
end

