-- ==== Sys2Proof/Certificates/Slice0/Obligations.lean ====
section
/-! DEFINITION. The statements for the provers. OBLIGATIONS.json lists them with the rules of spec/ they rest on. A
statement that rests on a decision the spec took for its source, or on a choice of this model, says so and names it. -/

open Sys2Proof Sys2Proof.Machine

/-! ### Encoding and decoding -/

/-- Decoding the bytes of a well-formed instruction gives the instruction back and leaves the bytes after it
(30_encoding.md R104, R120, R122, R124), for every row of the opcode table and every operand. -/
def Obligations.DecodeAfterEncodeGivesInstruction : Prop :=
  ∀ (i : Instr) (rest : List Byte), i.wellFormed = true → decode (encodeBytes i ++ rest) = .ok (i, rest)

/-- Every first word that decodes to an instruction is that instruction's own encoding: no bit is dropped
(30_encoding.md R117, R122), and the instruction is well-formed. -/
def Obligations.EncodeAfterDecodeGivesWords : Prop :=
  ∀ (w1 w2 : Word) (i : Instr), decodeWords w1 w2 = .ok i →
    i.wellFormed = true ∧ encode i = if hasSecondWord w1 then [w1, w2] else [w1]

/-- The first words rejected as undefined are exactly those 30_encoding.md R123 lists. That they are a fault is the spec's
decision D19. -/
def Obligations.UndefinedFirstWordsAreIllegal : Prop :=
  ∀ (w1 w2 : Word), decodeWords w1 w2 = .error .illegal ↔ UndefinedFirstWord w1

/-- The first words rejected for a fixed field are exactly the defined ones whose fixed fields (30_encoding.md R122) have
other values. That they are refused is the spec's decision D19. -/
def Obligations.WrongFixedFieldsAreRefused : Prop :=
  ∀ (w1 w2 : Word), decodeWords w1 w2 = .error .fixedField ↔ ¬ UndefinedFirstWord w1 ∧ ¬ FixedFieldsHold w1

/-- 30_encoding.md R124: the jump condition is the Rd field of opcode A0h and A1h, code by code; code Dh is blank. -/
def Obligations.JumpConditionIsRdField : Prop :=
  ∀ (w2 : Word) (rx : BitVec 4),
    let direct (cc : BitVec 4) := decodeWords (packFirst 0xA0#8 cc 0#4) w2
    let indexed (cc : BitVec 4) := decodeWords (packFirst 0xA1#8 cc rx) w2
    let x := Reg.ofCode rx
    (direct 0x0#4 = .ok (.jzDrct w2) ∧ indexed 0x0#4 = .ok (.jzIndex w2 x)) ∧
    (direct 0x1#4 = .ok (.jcDrct w2) ∧ indexed 0x1#4 = .ok (.jcIndex w2 x)) ∧
    (direct 0x2#4 = .ok (.jmDrct w2) ∧ indexed 0x2#4 = .ok (.jmIndex w2 x)) ∧
    (direct 0x3#4 = .ok (.joDrct w2) ∧ indexed 0x3#4 = .ok (.joIndex w2 x)) ∧
    (direct 0x4#4 = .ok (.jgtDrct w2) ∧ indexed 0x4#4 = .ok (.jgtIndex w2 x)) ∧
    (direct 0x5#4 = .ok (.jgeDrct w2) ∧ indexed 0x5#4 = .ok (.jgeIndex w2 x)) ∧
    (direct 0x6#4 = .ok (.jleDrct w2) ∧ indexed 0x6#4 = .ok (.jleIndex w2 x)) ∧
    (direct 0x7#4 = .ok (.jltDrct w2) ∧ indexed 0x7#4 = .ok (.jltIndex w2 x)) ∧
    (direct 0x8#4 = .ok (.jnzDrct w2) ∧ indexed 0x8#4 = .ok (.jnzIndex w2 x)) ∧
    (direct 0x9#4 = .ok (.jncDrct w2) ∧ indexed 0x9#4 = .ok (.jncIndex w2 x)) ∧
    (direct 0xA#4 = .ok (.jnmDrct w2) ∧ indexed 0xA#4 = .ok (.jnmIndex w2 x)) ∧
    (direct 0xB#4 = .ok (.jnoDrct w2) ∧ indexed 0xB#4 = .ok (.jnoIndex w2 x)) ∧
    (direct 0xC#4 = .ok (.jhiDrct w2) ∧ indexed 0xC#4 = .ok (.jhiIndex w2 x)) ∧
    (direct 0xE#4 = .ok (.jlsDrct w2) ∧ indexed 0xE#4 = .ok (.jlsIndex w2 x)) ∧
    (direct 0xF#4 = .ok (.jmpDrct w2) ∧ indexed 0xF#4 = .ok (.jmpIndex w2 x)) ∧
    (∀ i, direct 0xD#4 ≠ .ok i) ∧ (∀ i, indexed 0xD#4 ≠ .ok i)

/-- 30_encoding.md R110, for every word that decodes to an instruction in mode FP Rlt: D4 is bits 3:0 of the first word, a
two's-complement number from -8 to +7; the byte offset is the sign-extended field times 2, an even number from -16 to +14;
the address is that offset plus FP, modulo 2^16. -/
def Obligations.ShortDisplacementIsTwiceD4 : Prop :=
  ∀ (s : State) (w1 w2 : Word) (rd : Reg) (dsp4 : Int),
    (∃ op, decodeWords w1 w2 = .ok (mkTwo op rd (.mem (.fpRlt dsp4)))) ∨ decodeWords w1 w2 = .ok (mkSt rd (.fpRlt dsp4)) →
    let d4 : BitVec 4 := w1.extractLsb' 0 4
    d4.toInt ≤ 7 ∧ -8 ≤ d4.toInt ∧ dsp4 = d4.toInt * 2 ∧ -16 ≤ dsp4 ∧ dsp4 ≤ 14 ∧ dsp4 % 2 = 0 ∧
      effAddr s (.fpRlt dsp4) = d4.signExtend 16 * 2#16 + readReg s (Reg.ofCode 0xC#4)

/-- 30_encoding.md R111, for every word that decodes to an instruction with an immediate or a displacement: I4 is bits 3:0
of the first word, a two's-complement number from -8 to +7, and the operand is its sign extension; Imm and Dsp are the
second word unchanged. -/
def Obligations.ImmediatesAreTheirFields : Prop :=
  ∀ (s : State) (w1 w2 : Word),
    (∀ (op : TwoOp) (rd : Reg) (v : Int), decodeWords w1 w2 = .ok (mkTwo op rd (.imm4 v)) →
      let i4 : BitVec 4 := w1.extractLsb' 0 4
      i4.toInt ≤ 7 ∧ -8 ≤ i4.toInt ∧ v = i4.toInt ∧ operand s (.imm4 v) = .ok (i4.signExtend 16)) ∧
    (∀ (op : TwoOp) (rd : Reg) (v : Word), decodeWords w1 w2 = .ok (mkTwo op rd (.imm v)) →
      v = w2 ∧ operand s (.imm v) = .ok w2) ∧
    (∀ dsp : Word,
      (∃ i, decodeWords w1 w2 = .ok i ∧
        ((∃ op rd, i = mkTwo op rd (.mem (.drct dsp))) ∨ (∃ rd, i = mkSt rd (.drct dsp)) ∨
          (∃ c, i = mkJump c (.drct dsp)) ∨ i = mkCall (.drct dsp) ∨ (∃ rd, i = mkIn rd (.drct dsp)) ∨
          ∃ rd, i = mkOut rd (.drct dsp))) →
      dsp = w2) ∧
    (∀ (dsp : Word) (rx : Reg),
      (∃ i, decodeWords w1 w2 = .ok i ∧
        ((∃ op rd, i = mkTwo op rd (.mem (.index dsp rx))) ∨ (∃ rd, i = mkSt rd (.index dsp rx)) ∨
          (∃ c, i = mkJump c (.index dsp rx)) ∨ i = mkCall (.index dsp rx))) →
      dsp = w2)

/-- A few words written out from 95_test_vectors.md 2.1 decode to the instructions it names. -/
def Obligations.SampleWordsDecode : Prop :=
  decodeTableWord 16 0x0000 = some .no ∧
  decodeTableWord 32 0x12340A20 = some (.ldImm (.g 2) 0x1234) ∧
  decodeTableWord 16 0x0B0F = some (.ldFpRlt (.g 0) (-2)) ∧
  decodeTableWord 16 0x1701 = some (.stBIndr (.g 0) (.g 1)) ∧
  decodeTableWord 16 0x2D20 = some (.cmpImm4 (.g 2) 0) ∧
  decodeTableWord 16 0x9C01 = some (.shrlReg (.g 0) (.g 1)) ∧
  decodeTableWord 32 0x0200A1F1 = some (.jmpIndex 0x0200 (.g 1)) ∧
  decodeTableWord 16 0xBE01 = some (.outIndr (.g 0) (.g 1)) ∧
  decodeTableWord 16 0xD4F0 = some .reti ∧
  decodeTableWord 16 0x1200 = none ∧
  decodeTableWord 16 0xFFFF = none

/-! ### The step -/

/-- When the bytes at PC decode to an instruction and no interrupt is delivered at the boundary, the step is that
instruction's (30_encoding.md R119). No interrupt is delivered with E = 0, nor where the environment picks none of the
pending sources (60_exceptions.md R242). That the state holds what the environment supplies as a list, one entry for each
coming boundary, and that a boundary uses up the first, is the model's own choice (log 14), which no rule states. -/
def Obligations.StepRunsDecodedInstruction : Prop :=
  ∀ (s : State) (i : Instr) (rest : List Byte),
    s.halted = false → s.mmuEnable = false → isOdd s.pc = false →
    (s.flag.e = false ∨ ∀ b, s.interrupts.head? = some b → ∀ src, b.pick = some src → src ∉ b.pending) →
    decode [physByte s s.pc, physByte s (s.pc + 1#16), physByte s (s.pc + 2#16), physByte s (s.pc + 3#16)] =
      .ok (i, rest) →
    step s = exec i { s with interrupts := s.interrupts.tail }

/-- With E = 1, a pending source the environment picks is taken before the instruction at PC: the trap entry through the
source's vector, saving PC (60_exceptions.md R242, R245; the spec's decisions D14 and D17). The vectors of the five sources
whose cells survive are those of 20_memory.md R77. -/
def Obligations.StepTakesPickedInterrupt : Prop :=
  ∀ (s : State) (b : Boundary) (rest : List Boundary) (src : IntSource),
    s.halted = false → s.flag.e = true → s.interrupts = b :: rest → b.pick = some src → src ∈ b.pending → CanTrap s →
    ∃ t, step s = .next t ∧ TrapTaken s t (vectorAddr src.entry) s.pc ∧ t.interrupts = rest ∧
      (src = .timer0 → vectorAddr src.entry = 0xFFE0#16) ∧ (src = .timer1 → vectorAddr src.entry = 0xFFE2#16) ∧
      (src = .rn4020Rx → vectorAddr src.entry = 0xFFE4#16) ∧ (src = .tecTx → vectorAddr src.entry = 0xFFEE#16) ∧
      (src = .microSd → vectorAddr src.entry = 0xFFF0#16)

/-- When the step stops by itself: the halted CPU has no step (10_state.md R41, spec decision D21); a step with the MMU
enabled is refused (20_memory.md R85, decision D26); with no interrupt delivered (E = 0, or no pending source picked from the
supply that the state holds by the model's choice, log 14), an odd PC faults (R67, decision D2), an undefined first word
faults (30_encoding.md R123, decision D19), and a wrong fixed field is refused (R125, decision D19). -/
def Obligations.StepStopsOnBadFetch : Prop :=
  ∀ s : State,
    (s.halted = true → step s = .fault .halted) ∧
    (s.halted = false → s.mmuEnable = true → step s = .refused .mmuEnabled) ∧
    (s.halted = false → s.mmuEnable = false →
      (s.flag.e = false ∨ ∀ b, s.interrupts.head? = some b → ∀ src, b.pick = some src → src ∉ b.pending) →
      (isOdd s.pc = true → step s = .fault (.addressFault s.pc)) ∧
      (isOdd s.pc = false → UndefinedFirstWord (physWord s s.pc) →
        step s = .fault (.illegalInstruction (physWord s s.pc))) ∧
      (isOdd s.pc = false → ¬ UndefinedFirstWord (physWord s s.pc) → ¬ FixedFieldsHold (physWord s s.pc) →
        step s = .refused (.fixedField (physWord s s.pc))))

/-! ### Reset -/

/-- 10_state.md R45, the three things the source says of reset: the IPL ROM is attached, RN4020-RAM is not affected, and
RN4020-Cmd has the initial value 0001. -/
def Obligations.ResetAttachesIplAndKeepsRn4020Ram : Prop :=
  State.reset.iplAttached = true ∧ State.reset.dev.rn4020Cmd = 0b0001#4 ∧
    ∀ s : State, s.resetAgain.iplAttached = true ∧ s.resetAgain.dev.rn4020Ram = s.dev.rn4020Ram ∧
      s.resetAgain.dev.rn4020Cmd = 0b0001#4

/-- The spec's decisions on reset (10_state.md R46; decisions D20 and D26, log 17): privileged mode, interrupts off, not
halted, the MMU off. -/
def Obligations.ResetIsPrivilegedWithInterruptsOff : Prop :=
  State.reset.flag.p = true ∧ State.reset.flag.e = false ∧ State.reset.halted = false ∧ State.reset.mmuEnable = false

/-! ### Registers and FLAG -/

/-- 10_state.md R27: what each 4-bit code reads, and that the fields Rd, Rs and Rx of every two-operand instruction are such
codes. -/
def Obligations.RegisterCodesReadTheirRegisters : Prop :=
  (∀ (s : State) (c : BitVec 4),
    (∀ h : c.toNat < 12, readReg s (Reg.ofCode c) = s.g[c.toNat]) ∧
    (c = 0xC#4 → readReg s (Reg.ofCode c) = s.fp) ∧
    (c = 0xD#4 → readReg s (Reg.ofCode c) = if s.flag.p = true then s.ssp else s.usp) ∧
    (c = 0xE#4 → readReg s (Reg.ofCode c) = s.usp) ∧
    (c = 0xF#4 → readReg s (Reg.ofCode c) = (s.flag.toWord.extractLsb' 0 8).setWidth 16)) ∧
  ∀ (w1 w2 : Word) (op : TwoOp) (rd r : Reg) (dsp : Word) (m : Mode),
    m ∈ [Mode.mem (.index dsp r), .reg r, .mem (.indr r), .mem (.bIndr r)] →
    decodeWords w1 w2 = .ok (mkTwo op rd m) →
    rd = Reg.ofCode (w1.extractLsb' 4 4) ∧ r = Reg.ofCode (w1.extractLsb' 0 4)

/-- A register other than FLAG reads back what is written to it; the write changes the one cell its code names and nothing
else (10_state.md R27, R28). -/
def Obligations.RegisterReadsBackWhatWasWritten : Prop :=
  ∀ (s : State) (r : Reg) (v : Word), r ≠ .flag →
    readReg (writeReg s r v) r = v ∧ SameCellsBut (destCells s.flag.p r) s (writeReg s r v) ∧
      (writeReg s r v).flag = s.flag ∧ (writeReg s r v).pc = s.pc ∧ SameBytesBut [] s (writeReg s r v) ∧
      SameIo s (writeReg s r v) ∧ SameRun s (writeReg s r v)

/-- 10_state.md R24: code Eh designates USP in both modes, so the kernel reads and writes USP by it; in user mode codes Dh
and Eh designate the same register. -/
def Obligations.CodeEhIsUspInBothModes : Prop :=
  ∀ (s : State) (v : Word),
    readReg s (Reg.ofCode 0xE#4) = s.usp ∧ writeReg s (Reg.ofCode 0xE#4) v = { s with usp := v } ∧
      (s.flag.p = false →
        readReg s (Reg.ofCode 0xD#4) = readReg s (Reg.ofCode 0xE#4) ∧
          writeReg s (Reg.ofCode 0xD#4) v = writeReg s (Reg.ofCode 0xE#4) v)

/-- 10_state.md R31: FLAG read as a register gives E, P, I, U, V, C, S, Z in bits 7 to 0 and zero above, in both modes and
without side effect: `LD Rd,FLAG` changes Rd and PC only. -/
def Obligations.FlagReadsAsZeroExtendedByte : Prop :=
  ∀ (s : State),
    (readReg s (Reg.ofCode 0xF#4)).toNat =
      128 * s.flag.e.toNat + 64 * s.flag.p.toNat + 32 * s.flag.i.toNat + 16 * s.flag.u.toNat + 8 * s.flag.v.toNat +
        4 * s.flag.c.toNat + 2 * s.flag.s.toNat + s.flag.z.toNat ∧
    ∀ rd : Reg, rd ≠ .flag →
      exec (.ldReg rd (Reg.ofCode 0xF#4)) s =
        .next { writeReg s rd (readReg s (Reg.ofCode 0xF#4)) with pc := s.pc + 2#16 }

/-! ### NO, LD, ST -/

/-- NO advances PC and changes nothing else (40_nop_load_store.md R140). -/
def Obligations.NoOnlyAdvancesPc : Prop :=
  ∀ s : State, exec .no s = .next { s with pc := s.pc + 2#16 }

/-- LD into a register other than FLAG (40_nop_load_store.md R141): Rd takes the operand, FLAG and everything else is as it
was. The byte order, the byte extension and the alignment of memory operands are the spec's decisions D1, D5 and D2. -/
def Obligations.LoadPutsOperandInRegister : Prop :=
  ∀ (s : State) (rd : Reg) (m : Mode), rd ≠ .flag → OperandReadable s m →
    ∃ t, exec (mkTwo .ld rd m) s = .next t ∧ readReg t rd = operandValue s m ∧ t.flag = s.flag ∧
      t.draws = s.draws ∧ TwoOperandFrame s t rd m

/-- LD into FLAG (40_nop_load_store.md R141, 10_state.md R32; the masking in user mode is the spec's decision D11). -/
def Obligations.LoadIntoFlagIsMaskedInUserMode : Prop :=
  ∀ (s : State) (m : Mode), OperandReadable s m →
    ∃ t, exec (mkTwo .ld .flag m) s = .next t ∧ FlagWritten s.flag t.flag (operandValue s m) ∧ SameCellsBut [] s t ∧
      SameBytesBut [] s t ∧ SameIo s t ∧ SameRun s t ∧ t.draws = s.draws ∧ t.pc = s.pc + modeBytes m

/-- ST of a word (40_nop_load_store.md R142): the high byte at the effective address, the low byte after it (20_memory.md
R63, the spec's decision D1), every other byte as before, and no register or flag changed. -/
def Obligations.StoreWritesWordBigEndian : Prop :=
  ∀ (s : State) (rd : Reg) (m : MemMode), (∀ rx, m ≠ .bIndr rx) → WordWritable s (effAddr s m) →
    ∃ t, exec (mkSt rd m) s = .next t ∧
      physByte t (effAddr s m) = wordHi (readReg s rd) ∧ physByte t (effAddr s m + 1#16) = wordLo (readReg s rd) ∧
      physWord t (effAddr s m) = readReg s rd ∧ SameBytesBut [effAddr s m, effAddr s m + 1#16] s t ∧
      SameCellsBut [] s t ∧ t.flag = s.flag ∧ SameIo s t ∧ SameRun s t ∧ t.draws = s.draws ∧
      t.pc = s.pc + memModeBytes m

/-- ST of a byte, mode B Indr (40_nop_load_store.md R142, 20_memory.md R66, the spec's decision D5): the low byte of Rd at
the address in Rx, any address, every other byte as before. -/
def Obligations.StoreByteWritesLowByte : Prop :=
  ∀ (s : State) (rd rx : Reg), ByteWritable s (readReg s rx) →
    ∃ t, exec (.stBIndr rd rx) s = .next t ∧ physByte t (readReg s rx) = wordLo (readReg s rd) ∧
      SameBytesBut [readReg s rx] s t ∧ SameCellsBut [] s t ∧ t.flag = s.flag ∧ SameIo s t ∧ SameRun s t ∧
      t.draws = s.draws ∧ t.pc = s.pc + 2#16

/-- While the IPL ROM is attached, its region reads its bytes and a write there is refused; outside the region, and everywhere
once the ROM is detached, memory is RAM and can be written (20_memory.md R65, R78, R79). The region is the spec's open
parameter IPL_IMAGE, one piece from a base address on, and takes in E000h to FFDFh (R78, decision D27, log 25). -/
def Obligations.AttachedIplRomHidesRam : Prop :=
  ∀ (s : State) (a : Word) (b : Byte), s.mmuEnable = false →
    (0xE000 ≤ a.toNat → a.toNat < 0xFFE0 → InIplRegion a) ∧
    (s.iplAttached = true → InIplRegion a →
      readByte s a = .ok (Config.iplByte a) ∧ writeByte s a b = .error (.refusal (.romWrite a))) ∧
    (s.iplAttached = false ∨ ¬ InIplRegion a →
      ∃ t, writeByte s a b = .ok t ∧ readByte t a = .ok b ∧ SameBytesBut [a] s t)

/-! ### ADD, SUB, CMP and the rest of the arithmetic -/

/-- ADD (41_arithmetic_logic.md R151): the sum modulo 2^16; C the carry, V the signed overflow, S and Z of the result. The
formulas of C and V are the spec's reading of the names (its general knowledge K1, log 29). -/
def Obligations.AddSetsSumAndFlags : Prop :=
  ∀ (s : State) (rd : Reg) (m : Mode), rd ≠ .flag → OperandReadable s m →
    ∃ t, exec (mkTwo .add rd m) s = .next t ∧
      (let a := readReg s rd
       let b := operandValue s m
       (readReg t rd).toNat = (a.toNat + b.toNat) % 65536 ∧ (t.flag.c = true ↔ 65536 ≤ a.toNat + b.toNat) ∧
       (t.flag.v = true ↔ a.toInt + b.toInt < -32768 ∨ 32767 < a.toInt + b.toInt)) ∧
      SignZeroOf t.flag (readReg t rd) ∧ t.draws = s.draws ∧ TwoOperandFrame s t rd m

/-- SUB (41_arithmetic_logic.md R152): the difference modulo 2^16; C the borrow, V the signed overflow, S and Z of the
result. C and V are the spec's derivation from the comparison table. -/
def Obligations.SubtractSetsDifferenceAndFlags : Prop :=
  ∀ (s : State) (rd : Reg) (m : Mode), rd ≠ .flag → OperandReadable s m →
    ∃ t, exec (mkTwo .sub rd m) s = .next t ∧
      (let a := readReg s rd
       let b := operandValue s m
       ((readReg t rd).toNat : Int) = ((a.toNat : Int) - b.toNat) % 65536 ∧ (t.flag.c = true ↔ a.toNat < b.toNat) ∧
       (t.flag.v = true ↔ a.toInt - b.toInt < -32768 ∨ 32767 < a.toInt - b.toInt)) ∧
      SignZeroOf t.flag (readReg t rd) ∧ t.draws = s.draws ∧ TwoOperandFrame s t rd m

/-- CMP (41_arithmetic_logic.md R153): the flags of the difference, for every Rd, FLAG among them; no register written. -/
def Obligations.CompareSetsFlagsOnly : Prop :=
  ∀ (s : State) (rd : Reg) (m : Mode), OperandReadable s m →
    ∃ t, exec (mkTwo .cmp rd m) s = .next t ∧
      (let a := readReg s rd
       let b := operandValue s m
       (t.flag.c = true ↔ a.toNat < b.toNat) ∧
       (t.flag.v = true ↔ a.toInt - b.toInt < -32768 ∨ 32767 < a.toInt - b.toInt) ∧ SignZeroOf t.flag (a - b)) ∧
      SameCellsBut [] s t ∧ SameControlFlags s.flag t.flag ∧ SameBytesBut [] s t ∧ SameIo s t ∧ SameRun s t ∧
      t.draws = s.draws ∧ t.pc = s.pc + modeBytes m

/-- AND, OR and XOR (41_arithmetic_logic.md R154 to R156): bit by bit; S and Z of the result. V and C are free (the spec's
decision D6): nothing is said of them. -/
def Obligations.LogicWorksBitByBit : Prop :=
  ∀ (op : TwoOp) (f : Bool → Bool → Bool),
    (op = .and ∧ f = and) ∨ (op = .or ∧ f = or) ∨ (op = .xor ∧ f = xor) →
    ∀ (s : State) (rd : Reg) (m : Mode), rd ≠ .flag → OperandReadable s m →
      ∃ t, exec (mkTwo op rd m) s = .next t ∧
        (∀ k, k < 16 →
          (readReg t rd).getLsbD k = f ((readReg s rd).getLsbD k) ((operandValue s m).getLsbD k)) ∧
        SignZeroOf t.flag (readReg t rd) ∧ TwoOperandFrame s t rd m

/-- ADDS (41_arithmetic_logic.md R157): Rd plus twice the operand; S and Z of the result. V and C are free (decision D6). -/
def Obligations.AddScaledDoublesOperand : Prop :=
  ∀ (s : State) (rd : Reg) (m : Mode), rd ≠ .flag → OperandReadable s m →
    ∃ t, exec (mkTwo .adds rd m) s = .next t ∧
      (readReg t rd).toNat = ((readReg s rd).toNat + 2 * (operandValue s m).toNat) % 65536 ∧
      SignZeroOf t.flag (readReg t rd) ∧ TwoOperandFrame s t rd m

/-- MUL (41_arithmetic_logic.md R158): the low 16 bits of the product (the spec's decision D7), the same for the unsigned and
the signed reading. V and C are free (decision D6). -/
def Obligations.MultiplyKeepsLowHalf : Prop :=
  ∀ (s : State) (rd : Reg) (m : Mode), rd ≠ .flag → OperandReadable s m →
    ∃ t, exec (mkTwo .mul rd m) s = .next t ∧
      (readReg t rd).toNat = (readReg s rd).toNat * (operandValue s m).toNat % 65536 ∧
      readReg t rd = BitVec.ofInt 16 ((readReg s rd).toInt * (operandValue s m).toInt) ∧
      SignZeroOf t.flag (readReg t rd) ∧ TwoOperandFrame s t rd m

/-- DIV and MOD by a nonzero operand (41_arithmetic_logic.md R159, R160): where both operands are at most 7FFFh, quotient and
remainder of the division; elsewhere the open function DIVMOD (the spec's decision D7). V and C are free (decision D6). -/
def Obligations.DivideAndModuloAgree : Prop :=
  ∀ (s : State) (rd : Reg) (m : Mode), rd ≠ .flag → OperandReadable s m → operandValue s m ≠ 0#16 →
    ∃ t u, exec (mkTwo .div rd m) s = .next t ∧ exec (mkTwo .mod rd m) s = .next u ∧
      (let a := readReg s rd
       let b := operandValue s m
       if a.toNat ≤ 0x7FFF ∧ b.toNat ≤ 0x7FFF then
         a.toNat = (readReg t rd).toNat * b.toNat + (readReg u rd).toNat ∧ (readReg u rd).toNat < b.toNat
       else (readReg t rd, readReg u rd) = Config.divmod a b) ∧
      SignZeroOf t.flag (readReg t rd) ∧ SignZeroOf u.flag (readReg u rd) ∧ TwoOperandFrame s t rd m ∧
      TwoOperandFrame s u rd m

/-- DIV and MOD by zero stop with the fault ZeroDivide (60_exceptions.md R233; the spec's decision D8). -/
def Obligations.DivisionByZeroFaults : Prop :=
  ∀ (s : State) (op : TwoOp) (rd : Reg) (m : Mode), op = .div ∨ op = .mod → rd ≠ .flag → OperandReadable s m →
    operandValue s m = 0#16 → exec (mkTwo op rd m) s = .fault (.zeroDivide s.pc)

/-- The shifts by 0 to 15 places (42_shift.md R170 to R174): SHLA and SHLL multiply by 2^n, SHRA divides the signed value by
2^n rounding down, SHRL the unsigned one; after a one-bit shift C is the bit shifted out (the spec's general knowledge K2,
log 30); S and Z are those of the result. V, and C for other counts, are free (decision D6). -/
def Obligations.ShiftMovesBitsAndCarry : Prop :=
  ∀ (s : State) (op : TwoOp) (rd : Reg) (m : Mode), rd ≠ .flag → OperandReadable s m →
    op ∈ [TwoOp.shla, .shll, .shra, .shrl] → (operandValue s m).toNat < 16 →
    ∃ t, exec (mkTwo op rd m) s = .next t ∧
      (let a := readReg s rd
       let n := (operandValue s m).toNat
       (op = .shla ∨ op = .shll →
         (readReg t rd).toNat = a.toNat * 2 ^ n % 65536 ∧ (n = 1 → t.flag.c = a.getLsbD 15)) ∧
       (op = .shra → (readReg t rd).toInt = a.toInt / 2 ^ n ∧ (n = 1 → t.flag.c = a.getLsbD 0)) ∧
       (op = .shrl → (readReg t rd).toNat = a.toNat / 2 ^ n ∧ (n = 1 → t.flag.c = a.getLsbD 0))) ∧
      SignZeroOf t.flag (readReg t rd) ∧ TwoOperandFrame s t rd m

/-- A shift by 16 or more completes; the result and V, C, S, Z are free (42_shift.md R170, the spec's decision D9) and
nothing is said of them; everything else is as it was. -/
def Obligations.LongShiftChangesOnlyResultAndConditionCodes : Prop :=
  ∀ (s : State) (op : TwoOp) (rd : Reg) (m : Mode), rd ≠ .flag → OperandReadable s m →
    op ∈ [TwoOp.shla, .shll, .shra, .shrl] → 16 ≤ (operandValue s m).toNat →
    ∃ t, exec (mkTwo op rd m) s = .next t ∧ TwoOperandFrame s t rd m

/-- The operands the spec refuses: FLAG as the destination of a flag-changing instruction that writes Rd
(41_arithmetic_logic.md R161 (b), decision D10), and PUSH or POP of the stack pointer in use (45_stack_return.md R210, R211,
decision D30). -/
def Obligations.AmbiguousDestinationsAreRefused : Prop :=
  ∀ (s : State),
    (∀ (op : TwoOp) (m : Mode), op ≠ .ld → op ≠ .cmp → exec (mkTwo op .flag m) s = .refused .flagDestination) ∧
    (∀ rd : Reg, rd = .sp ∨ (rd = .usp ∧ s.flag.p = false) →
      exec (.push rd) s = .refused .stackPointerOperand ∧ exec (.pop rd) s = .refused .stackPointerOperand)

/-- A 16-bit operand access at an odd address is the fault AddressFault (20_memory.md R67, 60_exceptions.md R236; the spec's
decision D2), for every instruction `Rd,EA` and for ST. -/
def Obligations.OddWordOperandFaults : Prop :=
  ∀ (s : State) (rd : Reg) (a : MemMode), (∀ rx, a ≠ .bIndr rx) → isOdd (effAddr s a) = true →
    (∀ op : TwoOp, rd ≠ .flag ∨ op = .ld ∨ op = .cmp →
      exec (mkTwo op rd (.mem a)) s = .fault (.addressFault (effAddr s a))) ∧
    exec (mkSt rd a) s = .fault (.addressFault (effAddr s a))

/-! ### Jumps and the stack -/

/-- The fifteen jumps (43_jump_call.md R180 to R195): PC becomes the target if the condition holds and the address after
the two words otherwise; nothing else changes. -/
def Obligations.JumpGoesWhereConditionSays : Prop :=
  ∀ (s : State) (c : Cond) (g : Target),
    ∃ t, exec (mkJump c g) s = .next t ∧
      (JumpCondition s.flag c → t = { s with pc := jumpGoal s g }) ∧
      (¬ JumpCondition s.flag c → t = { s with pc := s.pc + 4#16 })

/-- The comparison table (43_jump_call.md R197, the spec's derivation from R153 and R180): after `CMP a,b`, each of the ten
jumps of the table is taken exactly when the signed or unsigned relation at the head of its column holds. -/
def Obligations.CompareThenJumpDecidesRelation : Prop :=
  ∀ (s : State) (rd : Reg) (m : Mode), OperandReadable s m →
    ∃ t, exec (mkTwo .cmp rd m) s = .next t ∧
      ∀ (c : Cond) (p : Prop),
        (let a := readReg s rd
         let b := operandValue s m
         (c, p) ∈
           [(.jgt, a.toInt > b.toInt), (.jge, a.toInt ≥ b.toInt), (.jz, a.toInt = b.toInt), (.jnz, a.toInt ≠ b.toInt),
            (.jle, a.toInt ≤ b.toInt), (.jlt, a.toInt < b.toInt), (.jhi, a.toNat > b.toNat), (.jnc, a.toNat ≥ b.toNat),
            (.jz, a.toNat = b.toNat), (.jnz, a.toNat ≠ b.toNat), (.jls, a.toNat ≤ b.toNat), (.jc, a.toNat < b.toNat)]) →
        ∀ dsp : Word, ∃ u, exec (mkJump c (.drct dsp)) t = .next u ∧ (p → u.pc = dsp) ∧ (¬ p → u.pc = t.pc + 4#16)

/-- CALL (43_jump_call.md R196): the address after it is pushed on the stack of the mode and PC becomes the target, computed
before the push (the spec's decisions D4 and D28). -/
def Obligations.CallPushesReturnAddress : Prop :=
  ∀ (s : State) (g : Target), CanPush s →
    ∃ t, exec (mkCall g) s = .next t ∧
      t.pc = jumpGoal s g ∧
      cellValue t (stackCell s.flag.p) = stackPointer s - 2#16 ∧ SameCellsBut [stackCell s.flag.p] s t ∧
      physWord t (stackPointer s - 2#16) = s.pc + 4#16 ∧
      SameBytesBut [stackPointer s - 2#16, stackPointer s - 1#16] s t ∧ t.flag = s.flag ∧ SameIo s t ∧ SameRun s t ∧
      t.draws = s.draws

/-- RET after CALL continues at the address after the CALL with every register as it was (43_jump_call.md R196,
45_stack_return.md R212). -/
def Obligations.ReturnUndoesCall : Prop :=
  ∀ (s : State) (g : Target), CanPush s →
    ∃ t u, exec (mkCall g) s = .next t ∧ exec .ret t = .next u ∧ u.pc = s.pc + 4#16 ∧ SameCellsBut [] s u ∧
      u.flag = s.flag ∧ SameBytesBut [stackPointer s - 2#16, stackPointer s - 1#16] s u ∧ SameIo s u ∧ SameRun s u

/-- RET (45_stack_return.md R212): PC takes the word at the stack pointer of the mode, which moves up by 2. -/
def Obligations.ReturnPopsPc : Prop :=
  ∀ s : State, WordReadable s (stackPointer s) →
    ∃ t, exec .ret s = .next t ∧ t.pc = physWord s (stackPointer s) ∧
      cellValue t (stackCell s.flag.p) = stackPointer s + 2#16 ∧ SameCellsBut [stackCell s.flag.p] s t ∧
      t.flag = s.flag ∧ SameBytesBut [] s t ∧ SameIo s t ∧ SameRun s t ∧ t.draws = s.draws

/-- PUSH (45_stack_return.md R210) of any register but the stack pointer in use: pre-decrement by 2 (the spec's decision D4)
and the write of the register's value. -/
def Obligations.PushStoresBelowStackPointer : Prop :=
  ∀ (s : State) (rd : Reg), namesStackPointer s rd = false → CanPush s →
    ∃ t, exec (.push rd) s = .next t ∧ cellValue t (stackCell s.flag.p) = stackPointer s - 2#16 ∧
      SameCellsBut [stackCell s.flag.p] s t ∧ physWord t (stackPointer s - 2#16) = readReg s rd ∧
      SameBytesBut [stackPointer s - 2#16, stackPointer s - 1#16] s t ∧ t.flag = s.flag ∧ SameIo s t ∧ SameRun s t ∧
      t.draws = s.draws ∧ t.pc = s.pc + 2#16

/-- POP (45_stack_return.md R211) into any register but the stack pointer in use: the word at the stack pointer goes to Rd,
masked in user mode where Rd is FLAG (10_state.md R32, decision D11), and the stack pointer moves up by 2. -/
def Obligations.PopLoadsAndMovesStackPointer : Prop :=
  ∀ (s : State) (rd : Reg), namesStackPointer s rd = false → WordReadable s (stackPointer s) →
    ∃ t, exec (.pop rd) s = .next t ∧ cellValue t (stackCell s.flag.p) = stackPointer s + 2#16 ∧
      (rd ≠ .flag → readReg t rd = physWord s (stackPointer s) ∧ t.flag = s.flag) ∧
      (rd = .flag → FlagWritten s.flag t.flag (physWord s (stackPointer s))) ∧
      SameCellsBut (stackCell s.flag.p :: destCells s.flag.p rd) s t ∧ SameBytesBut [] s t ∧ SameIo s t ∧ SameRun s t ∧
      t.draws = s.draws ∧ t.pc = s.pc + 2#16

/-- POP after PUSH moves one register to another and leaves the stack pointer where it was (45_stack_return.md R210, R211;
the spec's decision D4). -/
def Obligations.PopUndoesPush : Prop :=
  ∀ (s : State) (rd rd' : Reg), namesStackPointer s rd = false → namesStackPointer s rd' = false → rd' ≠ .flag →
    CanPush s →
    ∃ t u, exec (.push rd) s = .next t ∧ exec (.pop rd') t = .next u ∧ readReg u rd' = readReg s rd ∧
      stackPointer u = stackPointer s ∧ u.pc = s.pc + 4#16 ∧ SameCellsBut (destCells s.flag.p rd') s u ∧
      u.flag = s.flag

/-! ### Traps, RETI and HALT -/

/-- RETI (45_stack_return.md R213): FLAG and then PC popped from the stack of the mode it starts in (the spec's decision
D18); all of FLAG in privileged mode, U, V, C, S, Z only in user mode. -/
def Obligations.ReturnFromInterruptPopsFlagAndPc : Prop :=
  ∀ s : State, WordReadable s (stackPointer s) →
    ∃ t, exec .reti s = .next t ∧ FlagWritten s.flag t.flag (physWord s (stackPointer s)) ∧
      t.pc = physWord s (stackPointer s + 2#16) ∧ cellValue t (stackCell s.flag.p) = stackPointer s + 4#16 ∧
      SameCellsBut [stackCell s.flag.p] s t ∧ SameBytesBut [] s t ∧ SameIo s t ∧ SameRun s t ∧ t.draws = s.draws

/-- SVC (46_system.md R220), in either mode: the trap entry through FFFEh, saving the address after it (the spec's decisions
D14 to D16). -/
def Obligations.SupervisorCallTakesTrap : Prop :=
  ∀ s : State, CanTrap s →
    ∃ t, exec .svc s = .next t ∧ TrapTaken s t 0xFFFE#16 (s.pc + 2#16) ∧ t.interrupts = s.interrupts

/-- RETI undoes SVC (60_exceptions.md R245, R250): PC is the address after the SVC, and every register, both stack pointers
and the whole of FLAG, the mode among it, are as they were. -/
def Obligations.ReturnUndoesSupervisorCall : Prop :=
  ∀ s : State, CanTrap s →
    ∃ t u, exec .svc s = .next t ∧ exec .reti t = .next u ∧ u.pc = s.pc + 2#16 ∧ u.flag = s.flag ∧
      SameCellsBut [] s u ∧ SameBytesBut [s.ssp - 4#16, s.ssp - 3#16, s.ssp - 2#16, s.ssp - 1#16] s u ∧ SameIo s u ∧
      SameRun s u

/-- A privileged instruction without the privilege it needs takes the trap of a privilege violation, which saves its own
address (60_exceptions.md R232, R256; the set is the spec's decision D13, the vector its open parameter, log 27): HALT with
P = 0, IN and OUT with P = 0 and I = 0. The vector is an even address from FFE0h to FFFCh. -/
def Obligations.PrivilegeViolationTakesTrap : Prop :=
  ∀ (s : State) (i : Instr), s.flag.p = false → CanTrap s →
    (i = .halt ∨ s.flag.i = false ∧ ((∃ rd m, i = mkIn rd m) ∨ ∃ rd m, i = mkOut rd m)) →
    ∃ t, exec i s = .next t ∧ TrapTaken s t (vectorAddr privEntry) s.pc ∧ t.interrupts = s.interrupts ∧
      0xFFE0 ≤ (vectorAddr privEntry).toNat ∧ (vectorAddr privEntry).toNat ≤ 0xFFFC ∧
      isOdd (vectorAddr privEntry) = false

/-- HALT in privileged mode (46_system.md R221): the CPU is halted with PC at the next instruction (the spec's decisions D13
and D21); nothing else changes. -/
def Obligations.HaltStopsPrivilegedCpu : Prop :=
  ∀ s : State, s.flag.p = true → exec .halt s = .next { s with pc := s.pc + 2#16, halted := true }

/-! ### IN and OUT -/

/-- IN with the privilege it needs, at an I/O address (44_io.md R201, 20_memory.md R74; decisions D13, D22, D23): Rd takes the
answer of the row. What the spec fixes of the answer: an 8-bit row answers a byte; the mode register reads 0001h; the status,
rotary-switch and function rows keep their layouts (60_exceptions.md R263, R265, R266, R269); the TeC console's switches
read 00H (R270); RN4020-RAM and RN4020-Cmd as R267 says (log 32); the MMU rows their registers (20_memory.md R81, log 33). -/
def Obligations.InputPutsAnswerInRegister : Prop :=
  ∀ (s : State) (rd : Reg) (m : PortMode), s.flag.p = true ∨ s.flag.i = true →
    (portAddr s m).toNat < 256 → (portAddr s m).toNat % 2 = 0 →
    ∃ t v, exec (mkIn rd m) s = .next t ∧
      (rd ≠ .flag → readReg t rd = v ∧ t.flag = s.flag) ∧ (rd = .flag → FlagWritten s.flag t.flag v) ∧
      (let n := (portAddr s m).toNat
       (0x08 ≤ n ∧ n ≤ 0x10 ∨ 0x18 ≤ n ∧ n ≤ 0x36 ∨ 0xFC ≤ n → v.toNat < 256) ∧
       (n = 0x1E → v = 0x0001#16) ∧ (n ∈ [0x0A, 0x0E, 0x2A] → v &&& 0xFF3F#16 = 0#16) ∧
       (n = 0x10 → v &&& 0xFF3E#16 = 0#16) ∧ (n = 0xFC → v.toNat < 32) ∧ (n = 0xFE → v.toNat < 16) ∧
       (n ∈ [0x32, 0x34] → v = 0#16) ∧ (n = 0x2E → v = s.dev.rn4020Ram.setWidth 16) ∧
       (n = 0x2C → v.toNat < 16) ∧
       (n = 0x2C → s.dev.rn4020CmdWritten = false → v = s.dev.rn4020Cmd.setWidth 16) ∧
       (n = 0xA2 → v = s.violationAddr) ∧ (n = 0xA4 → v.getLsbD 1 = s.badAddr ∧ v.getLsbD 0 = s.memVio) ∧
       (n = 0xA6 → v = s.pageNumber)) ∧
      SameCellsBut (destCells s.flag.p rd) s t ∧ SameBytesBut [] s t ∧ SameIo s t ∧ SameRun s t ∧
      t.pc = s.pc + ioLength m

/-- OUT with the privilege it needs, at an I/O address, of a value the row accepts (44_io.md R202, 20_memory.md R75; decisions
D13, D22, D27): the event is appended to the output events with what reaches the device; A0h detaches the IPL (R79), A2h
clears the MMU enable bit (R81), A6h writes the page-table register, 80h to 9Fh the TLB; the device register of the row takes
the value and no other does (that the state keeps the value last written is the model's choice, log 34); no register, flag or
byte of memory changes. -/
def Obligations.OutputReachesDevice : Prop :=
  ∀ (s : State) (rd : Reg) (m : PortMode), s.flag.p = true ∨ s.flag.i = true →
    (portAddr s m).toNat < 256 → (portAddr s m).toNat % 2 = 0 →
    ((portAddr s m).toNat = 0x10 → (readReg s rd).toNat % 8 = 0) →
    ((portAddr s m).toNat = 0xA0 → (readReg s rd).getLsbD 0 = true) →
    ((portAddr s m).toNat = 0xA2 → (readReg s rd).getLsbD 0 = false) →
    ∃ t, exec (mkOut rd m) s = .next t ∧
      (let n := (portAddr s m).toNat
       let v := readReg s rd
       (∃ x : Word, t.outputs = s.outputs ++ [{ row := BitVec.ofNat 8 n, value := x }] ∧
         (0x08 ≤ n ∧ n ≤ 0x10 ∨ 0x18 ≤ n ∧ n ≤ 0x36 ∨ 0xFC ≤ n → x.toNat = v.toNat % 256) ∧
         (¬ (0x08 ≤ n ∧ n ≤ 0x10 ∨ 0x18 ≤ n ∧ n ≤ 0x36 ∨ 0xFC ≤ n) → x = v)) ∧
       t.iplAttached = (s.iplAttached && decide (n ≠ 0xA0)) ∧ t.mmuEnable = (s.mmuEnable && decide (n ≠ 0xA2)) ∧
       t.pageTable = (if n = 0xA6 then v else s.pageTable) ∧ (¬ (0x80 ≤ n ∧ n < 0xA0) → t.tlb = s.tlb) ∧
       DevicesAfterOut s.dev t.dev n v ∧ (n ≠ 0xA0 → SameBytesBut [] s t)) ∧
      t.violationAddr = s.violationAddr ∧ t.badAddr = s.badAddr ∧ t.memVio = s.memVio ∧
      t.pageNumber = s.pageNumber ∧ t.mem = s.mem ∧ SameCellsBut [] s t ∧ t.flag = s.flag ∧ SameRun s t ∧
      t.draws = s.draws ∧ t.pc = s.pc + ioLength m

/-- The IN and OUT the spec refuses: an effective address above 00FFh or odd (20_memory.md R73, decision D22), starting the
microSD unit (R92), an OUT to A0h with bit 0 clear (R79, decision D27), enabling the MMU (R85, decision D26). -/
def Obligations.UndescribedIoIsRefused : Prop :=
  ∀ (s : State) (rd : Reg) (m : PortMode), s.flag.p = true ∨ s.flag.i = true →
    (256 ≤ (portAddr s m).toNat ∨ (portAddr s m).toNat % 2 = 1 →
      exec (mkIn rd m) s = .refused (.ioAddress (portAddr s m)) ∧
        exec (mkOut rd m) s = .refused (.ioAddress (portAddr s m))) ∧
    ((portAddr s m).toNat = 0x10 → (readReg s rd).toNat % 8 ≠ 0 → exec (mkOut rd m) s = .refused .microSdStart) ∧
    ((portAddr s m).toNat = 0xA0 → (readReg s rd).getLsbD 0 = false →
      exec (mkOut rd m) s = .refused .iplDetachBitClear) ∧
    ((portAddr s m).toNat = 0xA2 → (readReg s rd).getLsbD 0 = true → exec (mkOut rd m) s = .refused .mmuEnabled)

/-- The TLB rows (20_memory.md R82, R83; the placement is the spec's decision D26, log 24): entry k has its PAGE in the low byte
of row 80h + 4k and the rest in row 82h + 4k, bit by bit as R83 lays it out. An IN of the row answers what was written but for
the undefined bits 14 and 13: that it reads back is the model's deduction (log 33, DEDUCED), for R74 leaves the answer of a
read to the oracle and R75 says only that the values are kept. The other entries keep what they hold. -/
def Obligations.TlbEntryReadsBack : Prop :=
  ∀ (s : State) (rd rd' : Reg) (k : Fin 8), s.flag.p = true ∨ s.flag.i = true → rd' ≠ .flag →
    let hi : Word := BitVec.ofNat 16 (0x80 + 4 * k.val)
    let lo : Word := BitVec.ofNat 16 (0x82 + 4 * k.val)
    let v := readReg s rd
    (∃ t u, exec (.outDrct rd hi) s = .next t ∧ exec (.inDrct rd' hi) t = .next u ∧
      wordLo (readReg u rd') = wordLo v ∧ t.tlb.get k = { s.tlb.get k with page := wordLo v } ∧
      ∀ j, j ≠ k → t.tlb.get j = s.tlb.get j) ∧
    (∃ t u, exec (.outDrct rd lo) s = .next t ∧ exec (.inDrct rd' lo) t = .next u ∧
      (∀ b, b < 16 → b ≠ 14 → b ≠ 13 → (readReg u rd').getLsbD b = v.getLsbD b) ∧
      t.tlb.get k =
        { page := (s.tlb.get k).page, valid := v.getLsbD 15, reference := v.getLsbD 12, dirty := v.getLsbD 11,
          read := v.getLsbD 10, write := v.getLsbD 9, execute := v.getLsbD 8, frame := wordLo v } ∧
      ∀ j, j ≠ k → t.tlb.get j = s.tlb.get j)

/-- RN4020-RAM (60_exceptions.md R267) reads back the byte last written, also after another reset. That the machine is
privileged after a reset is the spec's decision D20. -/
def Obligations.Rn4020RamReadsBackAcrossReset : Prop :=
  ∀ (s : State) (rd rd' : Reg), s.flag.p = true ∨ s.flag.i = true → rd' ≠ .flag →
    ∃ t u w, exec (.outDrct rd 0x2E#16) s = .next t ∧ exec (.inDrct rd' 0x2E#16) t = .next u ∧
      exec (.inDrct rd' 0x2E#16) t.resetAgain = .next w ∧
      (readReg u rd').toNat = (readReg s rd).toNat % 256 ∧ (readReg w rd').toNat = (readReg s rd).toNat % 256

/-! ### The whole machine -/

/-- Every step keeps the invariant: memory in canonical form, the MMU off (20_memory.md R85), no microSD operation started
(R92), every output event one the I/O space allows (R73, R75). -/
def Obligations.EveryStepKeepsWellFormedState : Prop :=
  ∀ s t : State, s.wf = true → step s = .next t → t.wf = true

/-- The invariant holds after reset (10_state.md R46: the MMU off, the spec's decision D26). Its clause on the microSD control
register rests on the zero this model gives that register at reset: R46 leaves it unspecified, and the zero is the model's
choice (log 18, DESIGN CHOICE). So do its clauses on memory and output events rest on the model's empty lists (logs 28, 34). -/
def Obligations.ResetStateIsWellFormed : Prop := State.reset.wf = true

/-- User mode is left only by a trap (60_exceptions.md R258; R245): a step from user mode to privileged mode is a trap entry,
of an SVC, of a privilege violation or of an interrupt, with everything that entry saves and nothing else. -/
def Obligations.UserModeIsLeftOnlyByTrap : Prop :=
  ∀ s t : State, step s = .next t → s.flag.p = false → t.flag.p = true →
    TrapTaken s t 0xFFFE#16 (s.pc + 2#16) ∨ TrapTaken s t (vectorAddr privEntry) s.pc ∨
      ∃ src : IntSource, s.flag.e = true ∧ TrapTaken s t (vectorAddr src.entry) s.pc

/-- What user mode cannot do (60_exceptions.md R257, the spec's derivation): a step that stays in user mode changes neither
SSP nor E, P, I nor the halted state, and with I = 0 it changes nothing on the I/O side. -/
def Obligations.UserModeKeepsPrivilegedState : Prop :=
  ∀ s t : State, step s = .next t → s.flag.p = false → t.flag.p = false →
    t.ssp = s.ssp ∧ t.flag.e = s.flag.e ∧ t.flag.i = s.flag.i ∧ t.halted = s.halted ∧
      (s.flag.i = false → SameIo s t)

/-- The IPL ROM is detached only by an OUT to A0h, and for good (20_memory.md R79; the spec's decision D27): no instruction and
no step attaches it again, and one that detaches it appends an output event of row A0h. -/
def Obligations.IplIsDetachedForGood : Prop :=
  ∀ s t : State, (step s = .next t ∨ ∃ i, exec i s = .next t) →
    (s.iplAttached = false → t.iplAttached = false) ∧
    (s.iplAttached = true → t.iplAttached = false →
      ∃ x : Word, t.outputs = s.outputs ++ [{ row := 0xA0#8, value := x }])

/-- Only HALT in privileged mode stops the CPU (46_system.md R221, 60_exceptions.md R277; decisions D13 and D21). -/
def Obligations.OnlyPrivilegedHaltStopsCpu : Prop :=
  ∀ (i : Instr) (s t : State), exec i s = .next t → s.halted = false → t.halted = true →
    i = .halt ∧ s.flag.p = true

/-! ### Faults on the stack -/

/-- A stack access with an odd stack pointer is the fault AddressFault (20_memory.md R67, 60_exceptions.md R236, R245; the
spec's decision D2): POP, RET and RETI at the stack pointer of the mode; PUSH and CALL below it; and every trap entry below
SSP, in either mode: SVC, a privilege violation (the set is decision D13), and an interrupt that the environment picks (its
supply in the state is the model's choice, log 14). -/
def Obligations.OddStackPointerFaults : Prop :=
  ∀ s : State,
    (isOdd (stackPointer s) = true →
      (∀ rd : Reg, namesStackPointer s rd = false →
        exec (.push rd) s = .fault (.addressFault (stackPointer s - 2#16)) ∧
          exec (.pop rd) s = .fault (.addressFault (stackPointer s))) ∧
      (∀ g : Target, exec (mkCall g) s = .fault (.addressFault (stackPointer s - 2#16))) ∧
      exec .ret s = .fault (.addressFault (stackPointer s)) ∧
      exec .reti s = .fault (.addressFault (stackPointer s))) ∧
    (isOdd s.ssp = true →
      exec .svc s = .fault (.addressFault (s.ssp - 2#16)) ∧
      (∀ i : Instr, s.flag.p = false →
        (i = .halt ∨ s.flag.i = false ∧ ((∃ rd m, i = mkIn rd m) ∨ ∃ rd m, i = mkOut rd m)) →
        exec i s = .fault (.addressFault (s.ssp - 2#16))) ∧
      (∀ (b : Boundary) (src : IntSource),
        s.halted = false → s.mmuEnable = false → s.flag.e = true → s.interrupts.head? = some b → b.pick = some src →
        src ∈ b.pending → step s = .fault (.addressFault (s.ssp - 2#16))))
end

