-- ==== Sys2Proof/Laws/Memory.lean ====
section
/-! SUPPORT. The list of written bytes: read after write, the canonical form, and that the form makes equal memories equal
data. -/

namespace Sys2Proof.Machine

@[simp] theorem Memory.lookup_nil (a : Nat) : Memory.lookup [] a = none := rfl

theorem Memory.lookup_cons (k : Nat) (b : Byte) (m : Memory) (a : Nat) :
    Memory.lookup ((k, b) :: m) a = if k = a then some b else Memory.lookup m a := rfl

/-- What a read finds after a write: the byte written at its own address, what was there elsewhere. -/
theorem Memory.lookup_store (m : Memory) (a : Nat) (b : Byte) (x : Nat) :
    Memory.lookup (Memory.store m a b) x = if x = a then some b else Memory.lookup m x := by
  induction m with
  | nil =>
    simp only [Memory.store, Memory.lookup]
    by_cases h : x = a
    · simp [h]
    · simp [h, Ne.symm h]
  | cons e rest ih =>
    obtain ⟨k, c⟩ := e
    simp only [Memory.store]
    split
    · simp only [Memory.lookup_cons]
      by_cases h : x = a
      · simp [h]
      · simp [h, Ne.symm h]
    · split
      · next hk =>
        subst hk
        simp only [Memory.lookup_cons]
        by_cases h : x = a
        · simp [h]
        · simp [h, Ne.symm h]
      · next hne =>
        simp only [Memory.lookup_cons, ih]
        by_cases h : k = x
        · subst h; simp [Ne.symm hne]
        · simp [h]

theorem Memory.lookup_store_same (m : Memory) (a : Nat) (b : Byte) :
    Memory.lookup (Memory.store m a b) a = some b := by simp [Memory.lookup_store]

theorem Memory.lookup_store_other (m : Memory) {a x : Nat} (b : Byte) (h : x ≠ a) :
    Memory.lookup (Memory.store m a b) x = Memory.lookup m x := by simp [Memory.lookup_store, h]

theorem Memory.wfFrom_store {m : Memory} {lo a : Nat} {b : Byte} (hm : Memory.wfFrom lo m = true) (hlo : lo ≤ a)
    (ha : a < 65536) : Memory.wfFrom lo (Memory.store m a b) = true := by
  induction m generalizing lo with
  | nil => simp [Memory.store, Memory.wfFrom, hlo, ha]
  | cons e rest ih =>
    obtain ⟨k, c⟩ := e
    simp only [Memory.wfFrom, Bool.and_eq_true, decide_eq_true_eq] at hm
    obtain ⟨⟨h1, h2⟩, h3⟩ := hm
    simp only [Memory.store]
    split
    · next hlt =>
      simp only [Memory.wfFrom, Bool.and_eq_true, decide_eq_true_eq]
      exact ⟨⟨hlo, ha⟩, ⟨by omega, h2⟩, h3⟩
    · split
      · next heq =>
        subst heq
        simp only [Memory.wfFrom, Bool.and_eq_true, decide_eq_true_eq]
        exact ⟨⟨hlo, ha⟩, h3⟩
      · next hnlt hne =>
        simp only [Memory.wfFrom, Bool.and_eq_true, decide_eq_true_eq]
        exact ⟨⟨h1, h2⟩, ih h3 (by omega)⟩

/-- A write keeps the canonical form. -/
theorem Memory.wf_store {m : Memory} {a : Nat} {b : Byte} (hm : Memory.wf m = true) (ha : a < 65536) :
    Memory.wf (Memory.store m a b) = true := Memory.wfFrom_store hm (Nat.zero_le a) ha

theorem Memory.wf_nil : Memory.wf [] = true := rfl

theorem Memory.lookup_below {m : Memory} {lo a : Nat} (hm : Memory.wfFrom lo m = true) (ha : a < lo) :
    Memory.lookup m a = none := by
  induction m generalizing lo with
  | nil => rfl
  | cons e rest ih =>
    obtain ⟨k, c⟩ := e
    simp only [Memory.wfFrom, Bool.and_eq_true, decide_eq_true_eq] at hm
    rw [Memory.lookup_cons, if_neg (by omega), ih hm.2 (by omega)]

theorem Memory.ext_from {m n : Memory} {lo : Nat} (hm : Memory.wfFrom lo m = true) (hn : Memory.wfFrom lo n = true)
    (h : ∀ a, Memory.lookup m a = Memory.lookup n a) : m = n := by
  induction m generalizing n lo with
  | nil =>
    cases n with
    | nil => rfl
    | cons e _ => obtain ⟨k, b⟩ := e; simpa [Memory.lookup_cons] using h k
  | cons e m' ih =>
    obtain ⟨k, b⟩ := e
    cases n with
    | nil => simpa [Memory.lookup_cons] using h k
    | cons e' n' =>
      obtain ⟨k', b'⟩ := e'
      simp only [Memory.wfFrom, Bool.and_eq_true, decide_eq_true_eq] at hm hn
      have hk : k = k' := by
        have h1 := h k
        have h2 := h k'
        rw [Memory.lookup_cons, Memory.lookup_cons] at h1 h2
        by_contra hne
        rcases Nat.lt_or_gt_of_ne hne with hlt | hgt
        · rw [if_pos rfl, if_neg (Ne.symm hne), Memory.lookup_below hn.2 (by omega)] at h1
          exact absurd h1 (by simp)
        · rw [if_neg hne, if_pos rfl, Memory.lookup_below hm.2 (by omega)] at h2
          exact absurd h2 (by simp)
      subst hk
      have hb : b = b' := by simpa [Memory.lookup_cons] using h k
      subst hb
      have htail : m' = n' := by
        refine ih hm.2 hn.2 fun a => ?_
        by_cases ha : k = a
        · subst ha; rw [Memory.lookup_below hm.2 (by omega), Memory.lookup_below hn.2 (by omega)]
        · simpa [Memory.lookup_cons, ha] using h a
      rw [htail]

/-- Equal memories are equal data: two memories in canonical form that hold the same bytes are the same list. -/
theorem Memory.ext_of_lookup {m n : Memory} (hm : Memory.wf m = true) (hn : Memory.wf n = true)
    (h : ∀ a, Memory.lookup m a = Memory.lookup n a) : m = n := Memory.ext_from hm hn h

end Sys2Proof.Machine
end

