-- ==== Sys2Proof/Laws/State.lean ====
section
/-! SUPPORT. One lemma for each field of State under each named update, so that no proof unfolds a record update. -/

namespace Sys2Proof.Machine

/-! ### The register file -/

@[simp] theorem setStackPointer_g (s : State) (v : Word) : (setStackPointer s v).g = s.g := by
  unfold setStackPointer; split <;> rfl

@[simp] theorem setStackPointer_fp (s : State) (v : Word) : (setStackPointer s v).fp = s.fp := by
  unfold setStackPointer; split <;> rfl

@[simp] theorem setStackPointer_pc (s : State) (v : Word) : (setStackPointer s v).pc = s.pc := by
  unfold setStackPointer; split <;> rfl

@[simp] theorem setStackPointer_flag (s : State) (v : Word) : (setStackPointer s v).flag = s.flag := by
  unfold setStackPointer; split <;> rfl

@[simp] theorem setStackPointer_halted (s : State) (v : Word) : (setStackPointer s v).halted = s.halted := by
  unfold setStackPointer; split <;> rfl

@[simp] theorem setStackPointer_mem (s : State) (v : Word) : (setStackPointer s v).mem = s.mem := by
  unfold setStackPointer; split <;> rfl

@[simp] theorem setStackPointer_iplAttached (s : State) (v : Word) : (setStackPointer s v).iplAttached = s.iplAttached := by
  unfold setStackPointer; split <;> rfl

@[simp] theorem setStackPointer_mmuEnable (s : State) (v : Word) : (setStackPointer s v).mmuEnable = s.mmuEnable := by
  unfold setStackPointer; split <;> rfl

@[simp] theorem setStackPointer_violationAddr (s : State) (v : Word) : (setStackPointer s v).violationAddr = s.violationAddr := by
  unfold setStackPointer; split <;> rfl

@[simp] theorem setStackPointer_badAddr (s : State) (v : Word) : (setStackPointer s v).badAddr = s.badAddr := by
  unfold setStackPointer; split <;> rfl

@[simp] theorem setStackPointer_memVio (s : State) (v : Word) : (setStackPointer s v).memVio = s.memVio := by
  unfold setStackPointer; split <;> rfl

@[simp] theorem setStackPointer_pageTable (s : State) (v : Word) : (setStackPointer s v).pageTable = s.pageTable := by
  unfold setStackPointer; split <;> rfl

@[simp] theorem setStackPointer_pageNumber (s : State) (v : Word) : (setStackPointer s v).pageNumber = s.pageNumber := by
  unfold setStackPointer; split <;> rfl

@[simp] theorem setStackPointer_tlb (s : State) (v : Word) : (setStackPointer s v).tlb = s.tlb := by
  unfold setStackPointer; split <;> rfl

@[simp] theorem setStackPointer_dev (s : State) (v : Word) : (setStackPointer s v).dev = s.dev := by
  unfold setStackPointer; split <;> rfl

@[simp] theorem setStackPointer_outputs (s : State) (v : Word) : (setStackPointer s v).outputs = s.outputs := by
  unfold setStackPointer; split <;> rfl

@[simp] theorem setStackPointer_interrupts (s : State) (v : Word) : (setStackPointer s v).interrupts = s.interrupts := by
  unfold setStackPointer; split <;> rfl

@[simp] theorem setStackPointer_draws (s : State) (v : Word) : (setStackPointer s v).draws = s.draws := by
  unfold setStackPointer; split <;> rfl

@[simp] theorem setStackPointer_ssp (s : State) (v : Word) :
    (setStackPointer s v).ssp = if s.flag.p then v else s.ssp := by
  unfold setStackPointer; split <;> rfl

@[simp] theorem setStackPointer_usp (s : State) (v : Word) :
    (setStackPointer s v).usp = if s.flag.p then s.usp else v := by
  unfold setStackPointer; split <;> rfl

@[simp] theorem stackPointer_setStackPointer (s : State) (v : Word) : stackPointer (setStackPointer s v) = v := by
  cases h : s.flag.p <;> simp [stackPointer, setStackPointer, h]

@[simp] theorem writeReg_pc (s : State) (r : Reg) (v : Word) : (writeReg s r v).pc = s.pc := by
  cases r <;> simp [writeReg]

@[simp] theorem writeReg_halted (s : State) (r : Reg) (v : Word) : (writeReg s r v).halted = s.halted := by
  cases r <;> simp [writeReg]

@[simp] theorem writeReg_mem (s : State) (r : Reg) (v : Word) : (writeReg s r v).mem = s.mem := by
  cases r <;> simp [writeReg]

@[simp] theorem writeReg_iplAttached (s : State) (r : Reg) (v : Word) : (writeReg s r v).iplAttached = s.iplAttached := by
  cases r <;> simp [writeReg]

@[simp] theorem writeReg_mmuEnable (s : State) (r : Reg) (v : Word) : (writeReg s r v).mmuEnable = s.mmuEnable := by
  cases r <;> simp [writeReg]

@[simp] theorem writeReg_violationAddr (s : State) (r : Reg) (v : Word) : (writeReg s r v).violationAddr = s.violationAddr := by
  cases r <;> simp [writeReg]

@[simp] theorem writeReg_badAddr (s : State) (r : Reg) (v : Word) : (writeReg s r v).badAddr = s.badAddr := by
  cases r <;> simp [writeReg]

@[simp] theorem writeReg_memVio (s : State) (r : Reg) (v : Word) : (writeReg s r v).memVio = s.memVio := by
  cases r <;> simp [writeReg]

@[simp] theorem writeReg_pageTable (s : State) (r : Reg) (v : Word) : (writeReg s r v).pageTable = s.pageTable := by
  cases r <;> simp [writeReg]

@[simp] theorem writeReg_pageNumber (s : State) (r : Reg) (v : Word) : (writeReg s r v).pageNumber = s.pageNumber := by
  cases r <;> simp [writeReg]

@[simp] theorem writeReg_tlb (s : State) (r : Reg) (v : Word) : (writeReg s r v).tlb = s.tlb := by
  cases r <;> simp [writeReg]

@[simp] theorem writeReg_dev (s : State) (r : Reg) (v : Word) : (writeReg s r v).dev = s.dev := by
  cases r <;> simp [writeReg]

@[simp] theorem writeReg_outputs (s : State) (r : Reg) (v : Word) : (writeReg s r v).outputs = s.outputs := by
  cases r <;> simp [writeReg]

@[simp] theorem writeReg_interrupts (s : State) (r : Reg) (v : Word) : (writeReg s r v).interrupts = s.interrupts := by
  cases r <;> simp [writeReg]

@[simp] theorem writeReg_draws (s : State) (r : Reg) (v : Word) : (writeReg s r v).draws = s.draws := by
  cases r <;> simp [writeReg]

@[simp] theorem writeReg_flag (s : State) (r : Reg) (v : Word) :
    (writeReg s r v).flag = if r = .flag then s.flag.write v else s.flag := by
  cases r <;> simp [writeReg]

/-! ### One boundary, one output event, one TLB row -/

@[simp] theorem passBoundary_g (s : State) : (passBoundary s).g = s.g := rfl

@[simp] theorem passBoundary_fp (s : State) : (passBoundary s).fp = s.fp := rfl

@[simp] theorem passBoundary_ssp (s : State) : (passBoundary s).ssp = s.ssp := rfl

@[simp] theorem passBoundary_usp (s : State) : (passBoundary s).usp = s.usp := rfl

@[simp] theorem passBoundary_pc (s : State) : (passBoundary s).pc = s.pc := rfl

@[simp] theorem passBoundary_flag (s : State) : (passBoundary s).flag = s.flag := rfl

@[simp] theorem passBoundary_halted (s : State) : (passBoundary s).halted = s.halted := rfl

@[simp] theorem passBoundary_mem (s : State) : (passBoundary s).mem = s.mem := rfl

@[simp] theorem passBoundary_iplAttached (s : State) : (passBoundary s).iplAttached = s.iplAttached := rfl

@[simp] theorem passBoundary_mmuEnable (s : State) : (passBoundary s).mmuEnable = s.mmuEnable := rfl

@[simp] theorem passBoundary_violationAddr (s : State) : (passBoundary s).violationAddr = s.violationAddr := rfl

@[simp] theorem passBoundary_badAddr (s : State) : (passBoundary s).badAddr = s.badAddr := rfl

@[simp] theorem passBoundary_memVio (s : State) : (passBoundary s).memVio = s.memVio := rfl

@[simp] theorem passBoundary_pageTable (s : State) : (passBoundary s).pageTable = s.pageTable := rfl

@[simp] theorem passBoundary_pageNumber (s : State) : (passBoundary s).pageNumber = s.pageNumber := rfl

@[simp] theorem passBoundary_tlb (s : State) : (passBoundary s).tlb = s.tlb := rfl

@[simp] theorem passBoundary_dev (s : State) : (passBoundary s).dev = s.dev := rfl

@[simp] theorem passBoundary_outputs (s : State) : (passBoundary s).outputs = s.outputs := rfl

@[simp] theorem passBoundary_interrupts (s : State) : (passBoundary s).interrupts = s.interrupts.tail := rfl

@[simp] theorem passBoundary_draws (s : State) : (passBoundary s).draws = s.draws := rfl

@[simp] theorem recordOutput_g (s : State) (a : BitVec 8) (v : Word) :
    (recordOutput s a v).g = s.g := rfl

@[simp] theorem recordOutput_fp (s : State) (a : BitVec 8) (v : Word) :
    (recordOutput s a v).fp = s.fp := rfl

@[simp] theorem recordOutput_ssp (s : State) (a : BitVec 8) (v : Word) :
    (recordOutput s a v).ssp = s.ssp := rfl

@[simp] theorem recordOutput_usp (s : State) (a : BitVec 8) (v : Word) :
    (recordOutput s a v).usp = s.usp := rfl

@[simp] theorem recordOutput_pc (s : State) (a : BitVec 8) (v : Word) :
    (recordOutput s a v).pc = s.pc := rfl

@[simp] theorem recordOutput_flag (s : State) (a : BitVec 8) (v : Word) :
    (recordOutput s a v).flag = s.flag := rfl

@[simp] theorem recordOutput_halted (s : State) (a : BitVec 8) (v : Word) :
    (recordOutput s a v).halted = s.halted := rfl

@[simp] theorem recordOutput_mem (s : State) (a : BitVec 8) (v : Word) :
    (recordOutput s a v).mem = s.mem := rfl

@[simp] theorem recordOutput_iplAttached (s : State) (a : BitVec 8) (v : Word) :
    (recordOutput s a v).iplAttached = s.iplAttached := rfl

@[simp] theorem recordOutput_mmuEnable (s : State) (a : BitVec 8) (v : Word) :
    (recordOutput s a v).mmuEnable = s.mmuEnable := rfl

@[simp] theorem recordOutput_violationAddr (s : State) (a : BitVec 8) (v : Word) :
    (recordOutput s a v).violationAddr = s.violationAddr := rfl

@[simp] theorem recordOutput_badAddr (s : State) (a : BitVec 8) (v : Word) :
    (recordOutput s a v).badAddr = s.badAddr := rfl

@[simp] theorem recordOutput_memVio (s : State) (a : BitVec 8) (v : Word) :
    (recordOutput s a v).memVio = s.memVio := rfl

@[simp] theorem recordOutput_pageTable (s : State) (a : BitVec 8) (v : Word) :
    (recordOutput s a v).pageTable = s.pageTable := rfl

@[simp] theorem recordOutput_pageNumber (s : State) (a : BitVec 8) (v : Word) :
    (recordOutput s a v).pageNumber = s.pageNumber := rfl

@[simp] theorem recordOutput_tlb (s : State) (a : BitVec 8) (v : Word) :
    (recordOutput s a v).tlb = s.tlb := rfl

@[simp] theorem recordOutput_dev (s : State) (a : BitVec 8) (v : Word) :
    (recordOutput s a v).dev = Devices.written s.dev a v := rfl

@[simp] theorem recordOutput_outputs (s : State) (a : BitVec 8) (v : Word) :
    (recordOutput s a v).outputs = s.outputs ++ [{ row := a, value := reachesDevice a v }] := rfl

@[simp] theorem recordOutput_interrupts (s : State) (a : BitVec 8) (v : Word) :
    (recordOutput s a v).interrupts = s.interrupts := rfl

@[simp] theorem recordOutput_draws (s : State) (a : BitVec 8) (v : Word) :
    (recordOutput s a v).draws = s.draws := rfl

@[simp] theorem tlbWrite_g (s : State) (a : BitVec 8) (v : Word) : (tlbWrite s a v).g = s.g := rfl

@[simp] theorem tlbWrite_fp (s : State) (a : BitVec 8) (v : Word) : (tlbWrite s a v).fp = s.fp := rfl

@[simp] theorem tlbWrite_ssp (s : State) (a : BitVec 8) (v : Word) : (tlbWrite s a v).ssp = s.ssp := rfl

@[simp] theorem tlbWrite_usp (s : State) (a : BitVec 8) (v : Word) : (tlbWrite s a v).usp = s.usp := rfl

@[simp] theorem tlbWrite_pc (s : State) (a : BitVec 8) (v : Word) : (tlbWrite s a v).pc = s.pc := rfl

@[simp] theorem tlbWrite_flag (s : State) (a : BitVec 8) (v : Word) : (tlbWrite s a v).flag = s.flag := rfl

@[simp] theorem tlbWrite_halted (s : State) (a : BitVec 8) (v : Word) : (tlbWrite s a v).halted = s.halted := rfl

@[simp] theorem tlbWrite_mem (s : State) (a : BitVec 8) (v : Word) : (tlbWrite s a v).mem = s.mem := rfl

@[simp] theorem tlbWrite_iplAttached (s : State) (a : BitVec 8) (v : Word) : (tlbWrite s a v).iplAttached = s.iplAttached := rfl

@[simp] theorem tlbWrite_mmuEnable (s : State) (a : BitVec 8) (v : Word) : (tlbWrite s a v).mmuEnable = s.mmuEnable := rfl

@[simp] theorem tlbWrite_violationAddr (s : State) (a : BitVec 8) (v : Word) : (tlbWrite s a v).violationAddr = s.violationAddr := rfl

@[simp] theorem tlbWrite_badAddr (s : State) (a : BitVec 8) (v : Word) : (tlbWrite s a v).badAddr = s.badAddr := rfl

@[simp] theorem tlbWrite_memVio (s : State) (a : BitVec 8) (v : Word) : (tlbWrite s a v).memVio = s.memVio := rfl

@[simp] theorem tlbWrite_pageTable (s : State) (a : BitVec 8) (v : Word) : (tlbWrite s a v).pageTable = s.pageTable := rfl

@[simp] theorem tlbWrite_pageNumber (s : State) (a : BitVec 8) (v : Word) : (tlbWrite s a v).pageNumber = s.pageNumber := rfl

@[simp] theorem tlbWrite_dev (s : State) (a : BitVec 8) (v : Word) : (tlbWrite s a v).dev = s.dev := rfl

@[simp] theorem tlbWrite_outputs (s : State) (a : BitVec 8) (v : Word) : (tlbWrite s a v).outputs = s.outputs := rfl

@[simp] theorem tlbWrite_interrupts (s : State) (a : BitVec 8) (v : Word) : (tlbWrite s a v).interrupts = s.interrupts := rfl

@[simp] theorem tlbWrite_draws (s : State) (a : BitVec 8) (v : Word) : (tlbWrite s a v).draws = s.draws := rfl

@[simp] theorem ioRead_g (s : State) (a : BitVec 8) : (ioRead s a).2.g = s.g := rfl

@[simp] theorem ioRead_fp (s : State) (a : BitVec 8) : (ioRead s a).2.fp = s.fp := rfl

@[simp] theorem ioRead_ssp (s : State) (a : BitVec 8) : (ioRead s a).2.ssp = s.ssp := rfl

@[simp] theorem ioRead_usp (s : State) (a : BitVec 8) : (ioRead s a).2.usp = s.usp := rfl

@[simp] theorem ioRead_pc (s : State) (a : BitVec 8) : (ioRead s a).2.pc = s.pc := rfl

@[simp] theorem ioRead_flag (s : State) (a : BitVec 8) : (ioRead s a).2.flag = s.flag := rfl

@[simp] theorem ioRead_halted (s : State) (a : BitVec 8) : (ioRead s a).2.halted = s.halted := rfl

@[simp] theorem ioRead_mem (s : State) (a : BitVec 8) : (ioRead s a).2.mem = s.mem := rfl

@[simp] theorem ioRead_iplAttached (s : State) (a : BitVec 8) : (ioRead s a).2.iplAttached = s.iplAttached := rfl

@[simp] theorem ioRead_mmuEnable (s : State) (a : BitVec 8) : (ioRead s a).2.mmuEnable = s.mmuEnable := rfl

@[simp] theorem ioRead_violationAddr (s : State) (a : BitVec 8) : (ioRead s a).2.violationAddr = s.violationAddr := rfl

@[simp] theorem ioRead_badAddr (s : State) (a : BitVec 8) : (ioRead s a).2.badAddr = s.badAddr := rfl

@[simp] theorem ioRead_memVio (s : State) (a : BitVec 8) : (ioRead s a).2.memVio = s.memVio := rfl

@[simp] theorem ioRead_pageTable (s : State) (a : BitVec 8) : (ioRead s a).2.pageTable = s.pageTable := rfl

@[simp] theorem ioRead_pageNumber (s : State) (a : BitVec 8) : (ioRead s a).2.pageNumber = s.pageNumber := rfl

@[simp] theorem ioRead_tlb (s : State) (a : BitVec 8) : (ioRead s a).2.tlb = s.tlb := rfl

@[simp] theorem ioRead_dev (s : State) (a : BitVec 8) : (ioRead s a).2.dev = s.dev := rfl

@[simp] theorem ioRead_outputs (s : State) (a : BitVec 8) : (ioRead s a).2.outputs = s.outputs := rfl

@[simp] theorem ioRead_interrupts (s : State) (a : BitVec 8) : (ioRead s a).2.interrupts = s.interrupts := rfl

@[simp] theorem ioRead_draws (s : State) (a : BitVec 8) : (ioRead s a).2.draws = s.draws + 1 := rfl

@[simp] theorem ioRead_answer (s : State) (a : BitVec 8) : (ioRead s a).1 = ioAnswer s a := rfl

end Sys2Proof.Machine
end

