-- ==== Sys2Proof/Laws/Access.lean ====
section
/-! SUPPORT. What each memory access answers, and what a write changes: the lemmas that say once what `readWord`,
`writeByte` and `writeWord` can do. -/

namespace Sys2Proof.Machine

/-! ### Addresses -/

theorem isOdd_eq (a : Word) : isOdd a = decide (a.toNat % 2 = 1) := by
  simp [isOdd, BitVec.getLsbD, Nat.testBit_zero]

theorem toNat_even {a : Word} (h : isOdd a = false) : a.toNat % 2 = 0 := by
  rw [isOdd_eq] at h
  simpa using h

theorem isOdd_add_two (a : Word) : isOdd (a + 2#16) = isOdd a := by
  have h : (a + 2#16).toNat % 2 = a.toNat % 2 := by
    rw [BitVec.toNat_add]
    simp
  rw [isOdd_eq, isOdd_eq, h]

theorem isOdd_sub_two (a : Word) : isOdd (a - 2#16) = isOdd a := by
  rw [← isOdd_add_two, BitVec.sub_add_cancel]

theorem toNat_succ_of_even {a : Word} (h : isOdd a = false) : (a + 1#16).toNat = a.toNat + 1 := by
  have h2 := toNat_even h
  have h3 := a.isLt
  rw [BitVec.toNat_add]
  simp
  omega

theorem inIplRom_congr {s t : State} (h : t.iplAttached = s.iplAttached) (a : Word) : inIplRom t a = inIplRom s a := by
  simp [inIplRom, h]

theorem physByte_congr {s t : State} (h : t.iplAttached = s.iplAttached) (hm : t.mem = s.mem) (a : Word) :
    physByte t a = physByte s a := by
  simp [physByte, inIplRom_congr h, hm]

theorem physWord_congr {s t : State} (h : t.iplAttached = s.iplAttached) (hm : t.mem = s.mem) (a : Word) :
    physWord t a = physWord s a := by
  simp [physWord, physByte_congr h hm]

/-! ### Reads -/

theorem translate_eq {s : State} (h : s.mmuEnable = false) (a : Word) : translate s a = .ok a := by
  simp [translate, h]

theorem readByte_eq {s : State} (h : s.mmuEnable = false) (a : Word) : readByte s a = .ok (physByte s a) := by
  simp [readByte, translate_eq h]

theorem readByte_ok {s : State} {a : Word} {b : Byte} (h : readByte s a = .ok b) :
    s.mmuEnable = false ∧ b = physByte s a := by
  cases hm : s.mmuEnable with
  | true => simp [readByte, translate, hm] at h
  | false => rw [readByte_eq hm] at h; cases h; exact ⟨rfl, rfl⟩

/-- A word read at an even address with the MMU off answers the word there. -/
theorem readWord_eq {s : State} {a : Word} (h : WordReadable s a) : readWord s a = .ok (physWord s a) := by
  simp [readWord, h.2, readByte_eq h.1, physWord]

/-- A word read at an odd address is a fault. -/
theorem readWord_odd {s : State} {a : Word} (h : isOdd a = true) :
    readWord s a = .error (.fault (.addressFault a)) := by
  simp [readWord, h]

/-- All a word read can answer. -/
theorem readWord_ok {s : State} {a v : Word} (h : readWord s a = .ok v) : WordReadable s a ∧ v = physWord s a := by
  cases ho : isOdd a with
  | true => rw [readWord_odd ho] at h; cases h
  | false =>
    cases hm : s.mmuEnable with
    | true => simp [readWord, ho, readByte, translate, hm] at h
    | false => rw [readWord_eq ⟨hm, ho⟩] at h; cases h; exact ⟨⟨hm, ho⟩, rfl⟩

/-! ### Writes -/

/-- The state after a byte is written in RAM. -/
def storeByte (s : State) (a : Word) (b : Byte) : State := { s with mem := Memory.store s.mem a.toNat b }

/-- The state after a word is written in RAM. -/
def storeWord (s : State) (a w : Word) : State := storeByte (storeByte s a (wordHi w)) (a + 1#16) (wordLo w)

theorem writeByte_eq {s : State} {a : Word} (h : ByteWritable s a) (b : Byte) :
    writeByte s a b = .ok (storeByte s a b) := by
  simp [writeByte, translate_eq h.1, h.2, storeByte]

/-- All a byte write can answer. -/
theorem writeByte_ok {s t : State} {a : Word} {b : Byte} (h : writeByte s a b = .ok t) :
    ByteWritable s a ∧ t = storeByte s a b := by
  cases hm : s.mmuEnable with
  | true => simp [writeByte, translate, hm] at h
  | false =>
    cases hr : inIplRom s a with
    | true => simp [writeByte, translate_eq hm, hr] at h
    | false => rw [writeByte_eq ⟨hm, hr⟩] at h; cases h; exact ⟨⟨hm, hr⟩, rfl⟩

/-- A word written at an even address of RAM with the MMU off. -/
theorem writeWord_eq {s : State} {a : Word} (h : WordWritable s a) (w : Word) :
    writeWord s a w = .ok (storeWord s a w) := by
  have h1 : ByteWritable s a := ⟨h.1, h.2.2.1⟩
  have h2 : ByteWritable (storeByte s a (wordHi w)) (a + 1#16) := ⟨h.1, (inIplRom_congr rfl _).trans h.2.2.2⟩
  simp [writeWord, h.2.1, writeByte_eq h1, writeByte_eq h2, storeWord]

/-- A word written at an odd address is a fault. -/
theorem writeWord_odd {s : State} {a : Word} (h : isOdd a = true) (w : Word) :
    writeWord s a w = .error (.fault (.addressFault a)) := by
  simp [writeWord, h]

/-- All a word write can answer. -/
theorem writeWord_ok {s t : State} {a w : Word} (h : writeWord s a w = .ok t) :
    WordWritable s a ∧ t = storeWord s a w := by
  cases ho : isOdd a with
  | true => rw [writeWord_odd ho] at h; cases h
  | false =>
    cases hb : writeByte s a (wordHi w) with
    | error e => simp [writeWord, ho, hb] at h
    | ok u =>
      obtain ⟨hw, rfl⟩ := writeByte_ok hb
      simp only [writeWord, ho, hb] at h
      obtain ⟨hw2, rfl⟩ := writeByte_ok h
      exact ⟨⟨hw.1, ho, hw.2, (inIplRom_congr rfl _).symm.trans hw2.2⟩, rfl⟩

/-! ### What a write changes -/

theorem physByte_storeByte {s : State} {a : Word} (h : inIplRom s a = false) (b : Byte) (x : Word) :
    physByte (storeByte s a b) x = if x = a then b else physByte s x := by
  have hrom : inIplRom (storeByte s a b) x = inIplRom s x := inIplRom_congr rfl x
  have hmem : (storeByte s a b).mem = Memory.store s.mem a.toNat b := rfl
  simp only [physByte, hrom, hmem, Memory.lookup_store]
  by_cases hx : x = a
  · subst hx; simp [h]
  · have hne : x.toNat ≠ a.toNat := fun he => hx (BitVec.eq_of_toNat_eq he)
    simp [hx, hne]

/-- After a word is written in RAM: its two bytes at their addresses, high byte first, and every other byte as before. -/
theorem physByte_storeWord {s : State} {a : Word} (h : WordWritable s a) (w x : Word) :
    physByte (storeWord s a w) x =
      if x = a then wordHi w else if x = a + 1#16 then wordLo w else physByte s x := by
  have hne : a ≠ a + 1#16 := by
    intro he
    have := congrArg BitVec.toNat he
    rw [toNat_succ_of_even h.2.1] at this
    omega
  have h2 : inIplRom (storeByte s a (wordHi w)) (a + 1#16) = false := (inIplRom_congr rfl _).trans h.2.2.2
  rw [storeWord, physByte_storeByte h2, physByte_storeByte h.2.2.1]
  by_cases h1 : x = a
  · subst h1; simp [hne]
  · by_cases h4 : x = a + 1#16 <;> simp [h1, h4]

theorem bytesToWord_hi_lo (w : Word) : bytesToWord (wordHi w) (wordLo w) = w := by
  simp only [bytesToWord, wordHi, wordLo]
  exact BitVec.extractLsb'_append_extractLsb'_eq_extractLsb' (by decide) |>.trans BitVec.extractLsb'_eq_self

/-- A word read back after it is written. -/
theorem physWord_storeWord {s : State} {a : Word} (h : WordWritable s a) (w : Word) :
    physWord (storeWord s a w) a = w := by
  have hne : ¬ (a + 1#16 = a) := by
    intro he
    have := congrArg BitVec.toNat he
    rw [toNat_succ_of_even h.2.1] at this
    omega
  simp [physWord, physByte_storeWord h, hne, bytesToWord_hi_lo]

theorem storeByte_wf {s : State} {a : Word} {b : Byte} (h : Memory.wf s.mem = true) :
    Memory.wf (storeByte s a b).mem = true := Memory.wf_store h a.isLt

theorem storeWord_wf {s : State} {a w : Word} (h : Memory.wf s.mem = true) :
    Memory.wf (storeWord s a w).mem = true := storeByte_wf (storeByte_wf h)

end Sys2Proof.Machine
end

