-- ==== Sys2Proof/Laws/Encoding.lean ====
section
/-! SUPPORT. Fields, register codes, short displacements and bytes: the round trips that the encoder and the decoder are
made of. -/

namespace Sys2Proof

/-! ### The first word -/

@[simp] theorem opField_packFirst (op : BitVec 8) (rd rx : BitVec 4) : opField (packFirst op rd rx) = op := by
  apply BitVec.eq_of_getLsbD_eq
  intro i hi
  simp only [opField, packFirst, BitVec.getLsbD_extractLsb', BitVec.getLsbD_append]
  have h1 : ¬ (8 + i < 4) := by omega
  have h2 : ¬ (8 + i - 4 < 4) := by omega
  have h3 : 8 + i - 4 - 4 = i := by omega
  simp [hi, h1, h2, h3]

@[simp] theorem rdField_packFirst (op : BitVec 8) (rd rx : BitVec 4) : rdField (packFirst op rd rx) = rd := by
  apply BitVec.eq_of_getLsbD_eq
  intro i hi
  simp only [rdField, packFirst, BitVec.getLsbD_extractLsb', BitVec.getLsbD_append]
  have h1 : ¬ (4 + i < 4) := by omega
  have h2 : 4 + i - 4 = i := by omega
  simp [hi, h1, h2]

@[simp] theorem rxField_packFirst (op : BitVec 8) (rd rx : BitVec 4) : rxField (packFirst op rd rx) = rx := by
  apply BitVec.eq_of_getLsbD_eq
  intro i hi
  simp only [rxField, packFirst, BitVec.getLsbD_extractLsb', BitVec.getLsbD_append]
  simp [hi]

/-- A first word is its three fields. -/
theorem packFirst_fields (w : Word) : packFirst (opField w) (rdField w) (rxField w) = w := by
  apply BitVec.eq_of_getLsbD_eq
  intro i hi
  simp only [opField, rdField, rxField, packFirst, BitVec.getLsbD_extractLsb', BitVec.getLsbD_append]
  by_cases h1 : i < 4
  · simp [h1]
  · by_cases h2 : i - 4 < 4
    · have h3 : 4 + (i - 4) = i := by omega
      simp [h1, h2, h3]
    · have h3 : i - 4 - 4 < 8 := by omega
      have h4 : 8 + (i - 4 - 4) = i := by omega
      simp [h1, h2, h3, h4]

theorem opField_toNat (w : Word) : (opField w).toNat = w.toNat / 256 := by
  have := w.isLt
  simp only [opField, BitVec.extractLsb'_toNat, Nat.shiftRight_eq_div_pow]
  omega

theorem rdField_toNat (w : Word) : (rdField w).toNat = w.toNat / 16 % 16 := by
  simp [rdField, BitVec.extractLsb'_toNat, Nat.shiftRight_eq_div_pow]

theorem rxField_toNat (w : Word) : (rxField w).toNat = w.toNat % 16 := by
  simp [rxField, BitVec.extractLsb'_toNat]

/-- An opcode is its two parts. -/
theorem opcode_of_parts {op : BitVec 8} {h m : Nat} (h1 : (opHi op).toNat = h) (h2 : (opMode op).toNat = m) :
    op = BitVec.ofNat 8 (h * 8 + m) := by
  subst h1 h2
  revert op
  decide

/-- A first word is made of the parts the decoder reads. -/
theorem first_word_of_parts {w1 : Word} {h m : Nat} (h1 : (opHi (opField w1)).toNat = h)
    (h2 : (opMode (opField w1)).toNat = m) :
    w1 = packFirst (BitVec.ofNat 8 (h * 8 + m)) (rdField w1) (rxField w1) := by
  rw [← opcode_of_parts h1 h2, packFirst_fields]

theorem hasSecondWord_of_parts {w1 : Word} {h m : Nat} (h1 : (opHi (opField w1)).toNat = h)
    (h2 : (opMode (opField w1)).toNat = m) :
    hasSecondWord w1 = (((1 ≤ h && h ≤ 12) || (16 ≤ h && h ≤ 23)) && m ≤ 2) := by
  simp [hasSecondWord, h1, h2]

/-- All the check of a fixed field can answer. -/
theorem fixed_ok {f v : BitVec 4} {x i : Instr} (h : fixed f v x = .ok i) : f = v ∧ i = x := by
  unfold fixed at h
  split at h
  · cases h; exact ⟨‹_›, rfl⟩
  · cases h

/-! ### Codes -/

@[simp] theorem Reg.ofCode_code (r : Reg) : Reg.ofCode r.code = r := by
  cases r with
  | g i => revert i; decide
  | fp => rfl
  | sp => rfl
  | usp => rfl
  | flag => rfl

@[simp] theorem Reg.code_ofCode (c : BitVec 4) : (Reg.ofCode c).code = c := by
  revert c; decide

@[simp] theorem Cond.ofCode_code (c : Cond) : Cond.ofCode c.code = some c := by
  cases c <;> rfl

theorem Cond.code_of_ofCode {x : BitVec 4} {c : Cond} (h : Cond.ofCode x = some c) : c.code = x := by
  revert h; cases c <;> revert x <;> decide

theorem dsp4OfField_fieldOfDsp4 {d : Int} (h : dsp4Ok d = true) : dsp4OfField (fieldOfDsp4 d) = d := by
  simp only [dsp4Ok, Bool.and_eq_true, decide_eq_true_eq] at h
  obtain ⟨⟨h1, h2⟩, h3⟩ := h
  simp only [dsp4OfField, fieldOfDsp4, BitVec.toInt_ofInt]
  have h4 : (d / 2).bmod (2 ^ 4) = d / 2 := Int.bmod_eq_of_le (by omega) (by omega)
  rw [h4]
  omega

theorem imm4OfField_fieldOfImm4 {v : Int} (h : imm4Ok v = true) : imm4OfField (fieldOfImm4 v) = v := by
  simp only [imm4Ok, Bool.and_eq_true, decide_eq_true_eq] at h
  simp only [imm4OfField, fieldOfImm4, BitVec.toInt_ofInt]
  exact Int.bmod_eq_of_le (by omega) (by omega)

@[simp] theorem fieldOfDsp4_dsp4OfField (x : BitVec 4) : fieldOfDsp4 (dsp4OfField x) = x := by
  revert x; decide

@[simp] theorem fieldOfImm4_imm4OfField (x : BitVec 4) : fieldOfImm4 (imm4OfField x) = x := by
  revert x; decide

@[simp] theorem dsp4Ok_dsp4OfField (x : BitVec 4) : dsp4Ok (dsp4OfField x) = true := by
  revert x; decide

@[simp] theorem imm4Ok_imm4OfField (x : BitVec 4) : imm4Ok (imm4OfField x) = true := by
  revert x; decide

end Sys2Proof
end

