-- ==== Sys2Proof/Laws/Regs.lean ====
section
/-! SUPPORT. The register file as cells: what a register code reads, what a write of one changes, and FLAG as a word. -/

namespace Sys2Proof.Machine

@[simp] theorem cellValue_g (s : State) (i : Fin 12) : cellValue s (.g i) = s.g.get i := rfl

@[simp] theorem cellValue_fp (s : State) : cellValue s .fp = s.fp := rfl

@[simp] theorem cellValue_ssp (s : State) : cellValue s .ssp = s.ssp := rfl

@[simp] theorem cellValue_usp (s : State) : cellValue s .usp = s.usp := rfl

theorem cellValue_congr {s t : State} (hg : t.g = s.g) (hf : t.fp = s.fp) (hs : t.ssp = s.ssp) (hu : t.usp = s.usp)
    (c : RegCell) : cellValue t c = cellValue s c := by
  cases c <;> simp [hg, hf, hs, hu]

/-- A register code reads its cell, or FLAG as a word. -/
theorem readReg_eq_cell (s : State) (r : Reg) :
    readReg s r = match cellOf s.flag.p r with | some c => cellValue s c | none => s.flag.toWord := by
  cases r <;> cases h : s.flag.p <;> simp [readReg, cellOf, stackPointer, h]

theorem readReg_congr {s t : State} (hg : t.g = s.g) (hf : t.fp = s.fp) (hs : t.ssp = s.ssp) (hu : t.usp = s.usp)
    (hl : t.flag = s.flag) (r : Reg) : readReg t r = readReg s r := by
  cases r <;> simp [readReg, stackPointer, hg, hf, hs, hu, hl]

theorem cellOf_eq_none {p : Bool} {r : Reg} : cellOf p r = none ↔ r = .flag := by
  cases r <;> cases p <;> simp [cellOf]

theorem cellValue_setStackPointer (s : State) (v : Word) (c : RegCell) :
    cellValue (setStackPointer s v) c = if c = stackCell s.flag.p then v else cellValue s c := by
  cases c <;> cases h : s.flag.p <;> simp [stackCell, h]

theorem stackPointer_eq_cell (s : State) : stackPointer s = cellValue s (stackCell s.flag.p) := by
  cases h : s.flag.p <;> simp [stackPointer, stackCell, h]

/-- All a register write changes among the cells: the one its code names. -/
theorem cellValue_writeReg (s : State) (r : Reg) (v : Word) (c : RegCell) :
    cellValue (writeReg s r v) c = if cellOf s.flag.p r = some c then v else cellValue s c := by
  cases r with
  | g i =>
    cases c with
    | g j =>
      simp only [writeReg, cellValue_g, cellOf, Option.some.injEq, RegCell.g.injEq, Vector.get_eq_getElem]
      rw [Vector.getElem_set]
      simp [Fin.ext_iff]
    | fp => simp [writeReg, cellOf]
    | ssp => simp [writeReg, cellOf]
    | usp => simp [writeReg, cellOf]
  | fp => cases c <;> simp [writeReg, cellOf]
  | sp => cases c <;> cases h : s.flag.p <;> simp [writeReg, cellOf, h]
  | usp => cases c <;> simp [writeReg, cellOf]
  | flag => cases c <;> simp [writeReg, cellOf]

/-- A register other than FLAG reads back what was written to it. -/
theorem readReg_writeReg_same {s : State} {r : Reg} (h : r ≠ .flag) (v : Word) : readReg (writeReg s r v) r = v := by
  have hf : (writeReg s r v).flag = s.flag := by simp [h]
  rw [readReg_eq_cell, hf]
  cases hc : cellOf s.flag.p r with
  | none => exact absurd (cellOf_eq_none.mp hc) h
  | some c => simp [cellValue_writeReg, hc]

theorem writeReg_sameCellsBut (s : State) (r : Reg) (v : Word) :
    SameCellsBut (destCells s.flag.p r) s (writeReg s r v) := by
  intro c hc
  rw [cellValue_writeReg, if_neg]
  intro h
  exact hc (by simp [destCells, h])

/-! ### FLAG as a word -/

/-- The bits of FLAG read as a register (10_state.md R31). -/
theorem Flag.ofWord_toWord (f : Flag) : Flag.ofWord f.toWord = f := by
  rcases f with ⟨e, p, i, u, v, c, s, z⟩
  revert e p i u v c s z
  decide

theorem Flag.write_user {f : Flag} (h : f.p = false) (v : Word) :
    f.write v = { Flag.ofWord v with e := f.e, p := f.p, i := f.i } := by
  simp [Flag.write, h]

theorem Flag.write_privileged {f : Flag} (h : f.p = true) (v : Word) : f.write v = Flag.ofWord v := by
  simp [Flag.write, h]

end Sys2Proof.Machine
end

