-- ==== Sys2Proof/Laws/Stack.lean ====
section
/-! SUPPORT. What push, pop, trap entry and trap return answer: for each, the equation under which it completes and all it
can do if it completes. -/

namespace Sys2Proof.Machine

theorem wordWritable_congr {s t : State} (hm : t.mmuEnable = s.mmuEnable) (hi : t.iplAttached = s.iplAttached) (a : Word) :
    WordWritable t a ↔ WordWritable s a := by
  simp [WordWritable, hm, inIplRom_congr hi]

theorem wordReadable_congr {s t : State} (hm : t.mmuEnable = s.mmuEnable) (a : Word) :
    WordReadable t a ↔ WordReadable s a := by
  simp [WordReadable, hm]

@[simp] theorem storeWord_iplAttached (s : State) (a w : Word) : (storeWord s a w).iplAttached = s.iplAttached := rfl

@[simp] theorem storeWord_mmuEnable (s : State) (a w : Word) : (storeWord s a w).mmuEnable = s.mmuEnable := rfl

@[simp] theorem storeWord_flag (s : State) (a w : Word) : (storeWord s a w).flag = s.flag := rfl

@[simp] theorem storeWord_pc (s : State) (a w : Word) : (storeWord s a w).pc = s.pc := rfl

@[simp] theorem storeWord_ssp (s : State) (a w : Word) : (storeWord s a w).ssp = s.ssp := rfl

@[simp] theorem storeWord_usp (s : State) (a w : Word) : (storeWord s a w).usp = s.usp := rfl

@[simp] theorem cellValue_storeWord (s : State) (a w : Word) (c : RegCell) :
    cellValue (storeWord s a w) c = cellValue s c := by cases c <;> rfl

/-! ### Push and pop -/

/-- The state after a push. -/
def pushed (s : State) (v : Word) : State :=
  storeWord (setStackPointer s (stackPointer s - 2#16)) (stackPointer s - 2#16) v

theorem push_eq {s : State} (h : CanPush s) (v : Word) : push s v = .ok (pushed s v) := by
  have hw : WordWritable (setStackPointer s (stackPointer s - 2#16)) (stackPointer s - 2#16) :=
    (wordWritable_congr (by simp) (by simp) _).mpr h
  simp [push, writeWord_eq hw, pushed]

/-- All a push can answer. -/
theorem push_ok {s t : State} {v : Word} (h : push s v = .ok t) : CanPush s ∧ t = pushed s v := by
  obtain ⟨hw, rfl⟩ := writeWord_ok h
  exact ⟨(wordWritable_congr (by simp) (by simp) _).mp hw, rfl⟩

/-- A push with an odd stack pointer is a fault. -/
theorem push_odd {s : State} (h : isOdd (stackPointer s) = true) (v : Word) :
    push s v = .error (.fault (.addressFault (stackPointer s - 2#16))) := by
  have h2 : isOdd (stackPointer s - 2#16) = true := by rw [isOdd_sub_two]; exact h
  simp [push, writeWord_odd h2]

theorem pop_eq {s : State} (h : WordReadable s (stackPointer s)) :
    pop s = .ok (physWord s (stackPointer s), setStackPointer s (stackPointer s + 2#16)) := by
  simp [pop, readWord_eq h]

/-- A pop with an odd stack pointer is a fault. -/
theorem pop_odd {s : State} (h : isOdd (stackPointer s) = true) :
    pop s = .error (.fault (.addressFault (stackPointer s))) := by
  simp [pop, readWord_odd h]

/-- All a pop can answer. -/
theorem pop_ok {s t : State} {v : Word} (h : pop s = .ok (v, t)) :
    WordReadable s (stackPointer s) ∧ v = physWord s (stackPointer s) ∧
      t = setStackPointer s (stackPointer s + 2#16) := by
  cases hr : readWord s (stackPointer s) with
  | error e => simp [pop, hr] at h
  | ok w =>
    obtain ⟨h1, rfl⟩ := readWord_ok hr
    simp only [pop, hr, Except.ok.injEq, Prod.mk.injEq] at h
    exact ⟨h1, h.1.symm, h.2.symm⟩

/-- All a push changes: the stack pointer in use, and the two bytes of the word pushed. -/
theorem cellValue_pushed (s : State) (v : Word) (c : RegCell) :
    cellValue (pushed s v) c = if c = stackCell s.flag.p then stackPointer s - 2#16 else cellValue s c := by
  simp [pushed, cellValue_setStackPointer]

theorem physByte_pushed {s : State} (h : CanPush s) (v x : Word) :
    physByte (pushed s v) x =
      if x = stackPointer s - 2#16 then wordHi v
      else if x = stackPointer s - 2#16 + 1#16 then wordLo v
      else physByte s x := by
  have hw : WordWritable (setStackPointer s (stackPointer s - 2#16)) (stackPointer s - 2#16) :=
    (wordWritable_congr (by simp) (by simp) _).mpr h
  rw [pushed, physByte_storeWord hw, physByte_congr (s := s) (by simp) (by simp)]

theorem pushed_wf {s : State} (v : Word) (h : Memory.wf s.mem = true) : Memory.wf (pushed s v).mem = true :=
  storeWord_wf (by simpa using h)

@[simp] theorem pushed_flag (s : State) (v : Word) : (pushed s v).flag = s.flag := by simp [pushed]

@[simp] theorem pushed_iplAttached (s : State) (v : Word) : (pushed s v).iplAttached = s.iplAttached := by simp [pushed]

@[simp] theorem pushed_mmuEnable (s : State) (v : Word) : (pushed s v).mmuEnable = s.mmuEnable := by simp [pushed]

@[simp] theorem pushed_halted (s : State) (v : Word) : (pushed s v).halted = s.halted := by
  simp [pushed, storeWord, storeByte]

@[simp] theorem pushed_violationAddr (s : State) (v : Word) : (pushed s v).violationAddr = s.violationAddr := by
  simp [pushed, storeWord, storeByte]

@[simp] theorem pushed_badAddr (s : State) (v : Word) : (pushed s v).badAddr = s.badAddr := by
  simp [pushed, storeWord, storeByte]

@[simp] theorem pushed_memVio (s : State) (v : Word) : (pushed s v).memVio = s.memVio := by
  simp [pushed, storeWord, storeByte]

@[simp] theorem pushed_pageTable (s : State) (v : Word) : (pushed s v).pageTable = s.pageTable := by
  simp [pushed, storeWord, storeByte]

@[simp] theorem pushed_pageNumber (s : State) (v : Word) : (pushed s v).pageNumber = s.pageNumber := by
  simp [pushed, storeWord, storeByte]

@[simp] theorem pushed_tlb (s : State) (v : Word) : (pushed s v).tlb = s.tlb := by
  simp [pushed, storeWord, storeByte]

@[simp] theorem pushed_dev (s : State) (v : Word) : (pushed s v).dev = s.dev := by
  simp [pushed, storeWord, storeByte]

@[simp] theorem pushed_outputs (s : State) (v : Word) : (pushed s v).outputs = s.outputs := by
  simp [pushed, storeWord, storeByte]

@[simp] theorem pushed_interrupts (s : State) (v : Word) : (pushed s v).interrupts = s.interrupts := by
  simp [pushed, storeWord, storeByte]

@[simp] theorem pushed_draws (s : State) (v : Word) : (pushed s v).draws = s.draws := by
  simp [pushed, storeWord, storeByte]

theorem pushed_ssp (s : State) (v : Word) : (pushed s v).ssp = if s.flag.p then s.ssp - 2#16 else s.ssp := by
  cases h : s.flag.p <;> simp [pushed, stackPointer, h]

theorem pushed_usp (s : State) (v : Word) : (pushed s v).usp = if s.flag.p then s.usp else s.usp - 2#16 := by
  cases h : s.flag.p <;> simp [pushed, stackPointer, h]

/-! ### Trap entry and return -/

/-- The state after the frame of a trap is pushed: the saved PC, then the old FLAG (60_exceptions.md R245). -/
def framed (s : State) (saved : Word) : State :=
  pushed (pushed { s with flag := s.flag.enterTrap } saved) s.flag.toWord

theorem framed_canPush {s : State} (h : CanTrap s) (saved : Word) :
    CanPush { s with flag := s.flag.enterTrap } ∧ CanPush (pushed { s with flag := s.flag.enterTrap } saved) := by
  refine ⟨?_, ?_⟩
  · exact (wordWritable_congr rfl rfl _).mpr h.1
  · have hsp : stackPointer (pushed { s with flag := s.flag.enterTrap } saved) - 2#16 = s.ssp - 4#16 := by
      simp only [stackPointer, pushed_flag, Flag.enterTrap, if_true, pushed_ssp]
      bv_omega
    unfold CanPush
    rw [hsp]
    exact (wordWritable_congr (by simp) (by simp) _).mpr h.2

theorem trapEntry_eq {s : State} (h : CanTrap s) (k : Fin 16) (saved : Word) :
    trapEntry s k saved = .ok { framed s saved with pc := physWord (framed s saved) (vectorAddr k) } := by
  obtain ⟨h1, h2⟩ := framed_canPush h saved
  have hm : (framed s saved).mmuEnable = false := by simpa [framed] using h.1.1
  have hv : readVector (framed s saved) k = .ok (physWord (framed s saved) (vectorAddr k)) := by
    simp [readVector, translate_eq hm]
  simp only [framed] at hv ⊢
  simp [trapEntry, push_eq h1, push_eq h2, hv]

/-- A trap entry with an odd SSP is a fault at its first push (60_exceptions.md R245). -/
theorem trapEntry_odd {s : State} (h : isOdd s.ssp = true) (k : Fin 16) (saved : Word) :
    trapEntry s k saved = .error (.fault (.addressFault (s.ssp - 2#16))) := by
  have hp : isOdd (stackPointer { s with flag := s.flag.enterTrap }) = true := h
  rw [trapEntry, push_odd hp]
  rfl

/-- All a trap entry can answer. -/
theorem trapEntry_ok {s t : State} {k : Fin 16} {saved : Word} (h : trapEntry s k saved = .ok t) :
    CanTrap s ∧ t = { framed s saved with pc := physWord (framed s saved) (vectorAddr k) } := by
  cases h1 : push { s with flag := s.flag.enterTrap } saved with
  | error e => simp [trapEntry, h1] at h
  | ok s1 =>
    obtain ⟨hp1, rfl⟩ := push_ok h1
    cases h2 : push (pushed { s with flag := s.flag.enterTrap } saved) s.flag.toWord with
    | error e => simp [trapEntry, h1, h2] at h
    | ok s2 =>
      obtain ⟨hp2, -⟩ := push_ok h2
      have hsp : stackPointer (pushed { s with flag := s.flag.enterTrap } saved) - 2#16 = s.ssp - 4#16 := by
        simp only [stackPointer, pushed_flag, Flag.enterTrap, if_true, pushed_ssp]
        bv_omega
      have hc : CanTrap s := by
        refine ⟨(wordWritable_congr rfl rfl _).mp hp1, ?_⟩
        unfold CanPush at hp2
        rw [hsp] at hp2
        exact (wordWritable_congr (by simp) (by simp) _).mp hp2
      rw [trapEntry_eq hc] at h
      cases h
      exact ⟨hc, rfl⟩

@[simp] theorem framed_flag (s : State) (saved : Word) : (framed s saved).flag = s.flag.enterTrap := by simp [framed]

theorem framed_ssp (s : State) (saved : Word) : (framed s saved).ssp = s.ssp - 4#16 := by
  simp only [framed, pushed_ssp, pushed_flag, Flag.enterTrap, if_true]
  bv_omega

theorem framed_usp (s : State) (saved : Word) : (framed s saved).usp = s.usp := by
  simp [framed, pushed_usp, Flag.enterTrap]

/-- All a trap return can answer. -/
theorem trapReturn_ok {s t : State} (h : trapReturn s = .ok t) :
    WordReadable s (stackPointer s) ∧
      t = { setStackPointer s (stackPointer s + 4#16) with
            flag := s.flag.write (physWord s (stackPointer s))
            pc := physWord s (stackPointer s + 2#16) } := by
  cases h1 : pop s with
  | error e => simp [trapReturn, h1] at h
  | ok r =>
    obtain ⟨f, s1⟩ := r
    obtain ⟨hr, rfl, rfl⟩ := pop_ok h1
    cases h2 : pop (setStackPointer s (stackPointer s + 2#16)) with
    | error e => simp [trapReturn, h1, h2] at h
    | ok r =>
      obtain ⟨pcv, s2⟩ := r
      obtain ⟨-, rfl, rfl⟩ := pop_ok h2
      refine ⟨hr, ?_⟩
      simp only [trapReturn, h1, h2, Except.ok.injEq] at h
      rw [← h]
      have h4 : stackPointer s + 2#16 + 2#16 = stackPointer s + 4#16 := by bv_omega
      have hw : physWord (setStackPointer s (stackPointer s + 2#16)) (stackPointer s + 2#16) =
          physWord s (stackPointer s + 2#16) := physWord_congr (by simp) (by simp) _
      simp only [stackPointer_setStackPointer, h4, hw]
      cases hp : s.flag.p <;> simp [setStackPointer, hp]

theorem trapReturn_eq {s : State} (h : WordReadable s (stackPointer s)) :
    trapReturn s =
      .ok { setStackPointer s (stackPointer s + 4#16) with
            flag := s.flag.write (physWord s (stackPointer s))
            pc := physWord s (stackPointer s + 2#16) } := by
  have h2 : WordReadable (setStackPointer s (stackPointer s + 2#16))
      (stackPointer (setStackPointer s (stackPointer s + 2#16))) := by
    rw [stackPointer_setStackPointer]
    exact ⟨by simpa using h.1, by rw [isOdd_add_two]; exact h.2⟩
  obtain ⟨t, ht⟩ : ∃ t, trapReturn s = .ok t := by
    simp only [trapReturn, pop_eq h, pop_eq h2]
    exact ⟨_, rfl⟩
  rw [ht, (trapReturn_ok ht).2]

end Sys2Proof.Machine
end

