-- ==== Sys2Proof/Laws/Operands.lean ====
section
/-! SUPPORT. What reading an operand answers, and what a flag-changing instruction `Rd,EA` answers. -/

namespace Sys2Proof.Machine

theorem memOperand_word_ok {s : State} {a v : Word} (h : readWord s a = .ok v) : WordReadable s a ∧ v = physWord s a :=
  readWord_ok h

/-- An operand that can be read answers its value. -/
theorem operand_eq {s : State} {m : Mode} (h : OperandReadable s m) : operand s m = .ok (operandValue s m) := by
  rcases m with a | v | rs | v
  · cases a with
    | drct dsp => exact readWord_eq h
    | index dsp rx => exact readWord_eq h
    | fpRlt d => exact readWord_eq h
    | indr rx => exact readWord_eq h
    | bIndr rx =>
      have hb : readByte s (effAddr s (.bIndr rx)) = .ok (physByte s (readReg s rx)) := readByte_eq h _
      simp only [operand, memOperand, hb, operandValue]
  · rfl
  · rfl
  · rfl

/-- All an operand read can answer. -/
theorem operand_ok {s : State} {m : Mode} {v : Word} (h : operand s m = .ok v) :
    OperandReadable s m ∧ v = operandValue s m := by
  rcases m with a | w | rs | w
  · cases a with
    | drct dsp => exact readWord_ok h
    | index dsp rx => exact readWord_ok h
    | fpRlt d => exact readWord_ok h
    | indr rx => exact readWord_ok h
    | bIndr rx =>
      cases hb : readByte s (effAddr s (.bIndr rx)) with
      | error e => simp [operand, memOperand, hb] at h
      | ok b =>
        obtain ⟨hm, rfl⟩ := readByte_ok hb
        simp only [operand, memOperand, hb, Except.ok.injEq] at h
        exact ⟨hm, h.symm⟩
  · cases h; exact ⟨trivial, rfl⟩
  · cases h; exact ⟨trivial, rfl⟩
  · cases h; exact ⟨trivial, rfl⟩

/-! ### Outcomes -/

@[simp] theorem finish_ok (s : State) : finish (.ok s) = .next s := rfl

@[simp] theorem finish_fault (f : Fault) : finish (.error (.fault f)) = .fault f := rfl

@[simp] theorem finish_refusal (r : Refusal) : finish (.error (.refusal r)) = .refused r := rfl

theorem finish_error_ne_next (e : Stop) (t : State) : finish (.error e) ≠ .next t := by
  cases e <;> simp [finish]

theorem finish_next {x : Access State} {t : State} (h : finish x = .next t) : x = .ok t := by
  cases x with
  | ok s => simp only [finish_ok, Host.Outcome.next.injEq] at h; rw [h]
  | error e => exact absurd h (finish_error_ne_next e t)

/-! ### The flag-changing instructions -/

/-- A flag-changing instruction completes with its result in Rd. -/
theorem twoOperand_eq {s : State} {rd : Reg} {m : Mode} {compute : State → Word → Word → Access AluResult} {o : AluResult}
    (hrd : rd ≠ .flag) (hm : OperandReadable s m) (ho : compute s (readReg s rd) (operandValue s m) = .ok o) :
    twoOperand s rd m compute =
      .next { writeReg s rd o.value with flag := o.flag, draws := s.draws + o.drawn, pc := s.pc + modeBytes m } := by
  simp [twoOperand, hrd, operand_eq hm, ho]

/-- All a flag-changing instruction can answer. -/
theorem twoOperand_next {s t : State} {rd : Reg} {m : Mode} {compute : State → Word → Word → Access AluResult}
    (h : twoOperand s rd m compute = .next t) :
    rd ≠ .flag ∧ OperandReadable s m ∧
      ∃ o, compute s (readReg s rd) (operandValue s m) = .ok o ∧
        t = { writeReg s rd o.value with flag := o.flag, draws := s.draws + o.drawn, pc := s.pc + modeBytes m } := by
  by_cases hrd : rd = .flag
  · simp [twoOperand, hrd] at h
  · cases hop : operand s m with
    | error e => simp only [twoOperand, hrd, if_false, hop] at h; exact absurd h (finish_error_ne_next e t)
    | ok b =>
      obtain ⟨hm, rfl⟩ := operand_ok hop
      cases hc : compute s (readReg s rd) (operandValue s m) with
      | error e => simp only [twoOperand, hrd, if_false, hop, hc] at h; exact absurd h (finish_error_ne_next e t)
      | ok o =>
        simp only [twoOperand, hrd, if_false, hop, hc, Host.Outcome.next.injEq] at h
        exact ⟨hrd, hm, o, rfl, h.symm⟩

/-- All LD can answer. -/
theorem load_next {s t : State} {rd : Reg} {m : Mode} (h : load s rd m = .next t) :
    OperandReadable s m ∧ t = { writeReg s rd (operandValue s m) with pc := s.pc + modeBytes m } := by
  cases hop : operand s m with
  | error e => simp only [load, hop] at h; exact absurd h (finish_error_ne_next e t)
  | ok b =>
    obtain ⟨hm, rfl⟩ := operand_ok hop
    simp only [load, hop, Host.Outcome.next.injEq] at h
    exact ⟨hm, h.symm⟩

/-- All CMP can answer. -/
theorem compare_next {s t : State} {rd : Reg} {m : Mode} (h : compare s rd m = .next t) :
    OperandReadable s m ∧
      t = { s with flag := s.flag.sub (readReg s rd) (operandValue s m), pc := s.pc + modeBytes m } := by
  cases hop : operand s m with
  | error e => simp only [compare, hop] at h; exact absurd h (finish_error_ne_next e t)
  | ok b =>
    obtain ⟨hm, rfl⟩ := operand_ok hop
    simp only [compare, hop, Host.Outcome.next.injEq] at h
    exact ⟨hm, h.symm⟩

end Sys2Proof.Machine
end

