-- ==== Sys2Proof/Laws/Forms.lean ====
section
/-! SUPPORT. The 168 rows as families: every instruction is one of the forms below, and `exec` of a form is its shared
meaning. A proof over all instructions takes `instr_forms` and then has one case a form. -/

namespace Sys2Proof.Machine

/-- The shared meaning of the two-operand instructions. -/
def twoMeaning (s : State) (rd : Reg) (m : Mode) : TwoOp → Result
  | .ld => load s rd m
  | .add => add s rd m
  | .sub => subtract s rd m
  | .cmp => compare s rd m
  | .and => logicalAnd s rd m
  | .or => logicalOr s rd m
  | .xor => logicalXor s rd m
  | .adds => addScaled s rd m
  | .mul => multiply s rd m
  | .div => divide s rd m
  | .mod => modulo s rd m
  | .shla => shiftLeftArithmetic s rd m
  | .shll => shiftLeftLogical s rd m
  | .shra => shiftRightArithmetic s rd m
  | .shrl => shiftRightLogical s rd m

theorem exec_mkTwo (op : TwoOp) (rd : Reg) (m : Mode) (s : State) : exec (mkTwo op rd m) s = twoMeaning s rd m op := by
  cases op <;> rcases m with (_ | _ | _ | _ | _) | _ | _ | _ <;> rfl

theorem exec_mkSt (rd : Reg) (m : MemMode) (s : State) : exec (mkSt rd m) s = store s rd m := by
  cases m <;> rfl

theorem exec_mkJump (c : Cond) (t : Target) (s : State) : exec (mkJump c t) s = jump s c t := by
  cases c <;> cases t <;> rfl

theorem exec_mkCall (t : Target) (s : State) : exec (mkCall t) s = call s t := by
  cases t <;> rfl

theorem exec_mkIn (rd : Reg) (m : PortMode) (s : State) : exec (mkIn rd m) s = input s rd m := by
  cases m <;> rfl

theorem exec_mkOut (rd : Reg) (m : PortMode) (s : State) : exec (mkOut rd m) s = output s rd m := by
  cases m <;> rfl

theorem exec_no (s : State) : exec .no s = noOperation s := rfl

theorem exec_push (rd : Reg) (s : State) : exec (.push rd) s = pushRegister s rd := rfl

theorem exec_pop (rd : Reg) (s : State) : exec (.pop rd) s = popRegister s rd := rfl

theorem exec_ret (s : State) : exec .ret s = returnFromSubroutine s := rfl

theorem exec_reti (s : State) : exec .reti s = returnFromInterrupt s := rfl

theorem exec_svc (s : State) : exec .svc s = supervisorCall s := rfl

theorem exec_halt (s : State) : exec .halt s = halt s := rfl

/-- The forms an instruction can have. -/
inductive Form : Instr → Prop
  | no : Form .no
  | two (op : TwoOp) (rd : Reg) (m : Mode) : Form (mkTwo op rd m)
  | st (rd : Reg) (m : MemMode) : Form (mkSt rd m)
  | jump (c : Cond) (t : Target) : Form (mkJump c t)
  | call (t : Target) : Form (mkCall t)
  | input (rd : Reg) (m : PortMode) : Form (mkIn rd m)
  | output (rd : Reg) (m : PortMode) : Form (mkOut rd m)
  | push (rd : Reg) : Form (.push rd)
  | pop (rd : Reg) : Form (.pop rd)
  | ret : Form .ret
  | reti : Form .reti
  | svc : Form .svc
  | halt : Form .halt

/-- Every instruction has one of the forms. -/
theorem instr_forms (i : Instr) : Form i := by
  cases i with
  | no => exact .no
  | ldDrct rd dsp => exact .two .ld rd (.mem (.drct dsp))
  | ldIndex rd dsp rx => exact .two .ld rd (.mem (.index dsp rx))
  | ldImm rd imm => exact .two .ld rd (.imm imm)
  | ldFpRlt rd dsp4 => exact .two .ld rd (.mem (.fpRlt dsp4))
  | ldReg rd rs => exact .two .ld rd (.reg rs)
  | ldImm4 rd imm4 => exact .two .ld rd (.imm4 imm4)
  | ldIndr rd rx => exact .two .ld rd (.mem (.indr rx))
  | ldBIndr rd rx => exact .two .ld rd (.mem (.bIndr rx))
  | stDrct rd dsp => exact .st rd (.drct dsp)
  | stIndex rd dsp rx => exact .st rd (.index dsp rx)
  | stFpRlt rd dsp4 => exact .st rd (.fpRlt dsp4)
  | stIndr rd rx => exact .st rd (.indr rx)
  | stBIndr rd rx => exact .st rd (.bIndr rx)
  | addDrct rd dsp => exact .two .add rd (.mem (.drct dsp))
  | addIndex rd dsp rx => exact .two .add rd (.mem (.index dsp rx))
  | addImm rd imm => exact .two .add rd (.imm imm)
  | addFpRlt rd dsp4 => exact .two .add rd (.mem (.fpRlt dsp4))
  | addReg rd rs => exact .two .add rd (.reg rs)
  | addImm4 rd imm4 => exact .two .add rd (.imm4 imm4)
  | addIndr rd rx => exact .two .add rd (.mem (.indr rx))
  | addBIndr rd rx => exact .two .add rd (.mem (.bIndr rx))
  | subDrct rd dsp => exact .two .sub rd (.mem (.drct dsp))
  | subIndex rd dsp rx => exact .two .sub rd (.mem (.index dsp rx))
  | subImm rd imm => exact .two .sub rd (.imm imm)
  | subFpRlt rd dsp4 => exact .two .sub rd (.mem (.fpRlt dsp4))
  | subReg rd rs => exact .two .sub rd (.reg rs)
  | subImm4 rd imm4 => exact .two .sub rd (.imm4 imm4)
  | subIndr rd rx => exact .two .sub rd (.mem (.indr rx))
  | subBIndr rd rx => exact .two .sub rd (.mem (.bIndr rx))
  | cmpDrct rd dsp => exact .two .cmp rd (.mem (.drct dsp))
  | cmpIndex rd dsp rx => exact .two .cmp rd (.mem (.index dsp rx))
  | cmpImm rd imm => exact .two .cmp rd (.imm imm)
  | cmpFpRlt rd dsp4 => exact .two .cmp rd (.mem (.fpRlt dsp4))
  | cmpReg rd rs => exact .two .cmp rd (.reg rs)
  | cmpImm4 rd imm4 => exact .two .cmp rd (.imm4 imm4)
  | cmpIndr rd rx => exact .two .cmp rd (.mem (.indr rx))
  | cmpBIndr rd rx => exact .two .cmp rd (.mem (.bIndr rx))
  | andDrct rd dsp => exact .two .and rd (.mem (.drct dsp))
  | andIndex rd dsp rx => exact .two .and rd (.mem (.index dsp rx))
  | andImm rd imm => exact .two .and rd (.imm imm)
  | andFpRlt rd dsp4 => exact .two .and rd (.mem (.fpRlt dsp4))
  | andReg rd rs => exact .two .and rd (.reg rs)
  | andImm4 rd imm4 => exact .two .and rd (.imm4 imm4)
  | andIndr rd rx => exact .two .and rd (.mem (.indr rx))
  | andBIndr rd rx => exact .two .and rd (.mem (.bIndr rx))
  | orDrct rd dsp => exact .two .or rd (.mem (.drct dsp))
  | orIndex rd dsp rx => exact .two .or rd (.mem (.index dsp rx))
  | orImm rd imm => exact .two .or rd (.imm imm)
  | orFpRlt rd dsp4 => exact .two .or rd (.mem (.fpRlt dsp4))
  | orReg rd rs => exact .two .or rd (.reg rs)
  | orImm4 rd imm4 => exact .two .or rd (.imm4 imm4)
  | orIndr rd rx => exact .two .or rd (.mem (.indr rx))
  | orBIndr rd rx => exact .two .or rd (.mem (.bIndr rx))
  | xorDrct rd dsp => exact .two .xor rd (.mem (.drct dsp))
  | xorIndex rd dsp rx => exact .two .xor rd (.mem (.index dsp rx))
  | xorImm rd imm => exact .two .xor rd (.imm imm)
  | xorFpRlt rd dsp4 => exact .two .xor rd (.mem (.fpRlt dsp4))
  | xorReg rd rs => exact .two .xor rd (.reg rs)
  | xorImm4 rd imm4 => exact .two .xor rd (.imm4 imm4)
  | xorIndr rd rx => exact .two .xor rd (.mem (.indr rx))
  | xorBIndr rd rx => exact .two .xor rd (.mem (.bIndr rx))
  | addsDrct rd dsp => exact .two .adds rd (.mem (.drct dsp))
  | addsIndex rd dsp rx => exact .two .adds rd (.mem (.index dsp rx))
  | addsImm rd imm => exact .two .adds rd (.imm imm)
  | addsFpRlt rd dsp4 => exact .two .adds rd (.mem (.fpRlt dsp4))
  | addsReg rd rs => exact .two .adds rd (.reg rs)
  | addsImm4 rd imm4 => exact .two .adds rd (.imm4 imm4)
  | addsIndr rd rx => exact .two .adds rd (.mem (.indr rx))
  | addsBIndr rd rx => exact .two .adds rd (.mem (.bIndr rx))
  | mulDrct rd dsp => exact .two .mul rd (.mem (.drct dsp))
  | mulIndex rd dsp rx => exact .two .mul rd (.mem (.index dsp rx))
  | mulImm rd imm => exact .two .mul rd (.imm imm)
  | mulFpRlt rd dsp4 => exact .two .mul rd (.mem (.fpRlt dsp4))
  | mulReg rd rs => exact .two .mul rd (.reg rs)
  | mulImm4 rd imm4 => exact .two .mul rd (.imm4 imm4)
  | mulIndr rd rx => exact .two .mul rd (.mem (.indr rx))
  | mulBIndr rd rx => exact .two .mul rd (.mem (.bIndr rx))
  | divDrct rd dsp => exact .two .div rd (.mem (.drct dsp))
  | divIndex rd dsp rx => exact .two .div rd (.mem (.index dsp rx))
  | divImm rd imm => exact .two .div rd (.imm imm)
  | divFpRlt rd dsp4 => exact .two .div rd (.mem (.fpRlt dsp4))
  | divReg rd rs => exact .two .div rd (.reg rs)
  | divImm4 rd imm4 => exact .two .div rd (.imm4 imm4)
  | divIndr rd rx => exact .two .div rd (.mem (.indr rx))
  | divBIndr rd rx => exact .two .div rd (.mem (.bIndr rx))
  | modDrct rd dsp => exact .two .mod rd (.mem (.drct dsp))
  | modIndex rd dsp rx => exact .two .mod rd (.mem (.index dsp rx))
  | modImm rd imm => exact .two .mod rd (.imm imm)
  | modFpRlt rd dsp4 => exact .two .mod rd (.mem (.fpRlt dsp4))
  | modReg rd rs => exact .two .mod rd (.reg rs)
  | modImm4 rd imm4 => exact .two .mod rd (.imm4 imm4)
  | modIndr rd rx => exact .two .mod rd (.mem (.indr rx))
  | modBIndr rd rx => exact .two .mod rd (.mem (.bIndr rx))
  | shlaDrct rd dsp => exact .two .shla rd (.mem (.drct dsp))
  | shlaIndex rd dsp rx => exact .two .shla rd (.mem (.index dsp rx))
  | shlaImm rd imm => exact .two .shla rd (.imm imm)
  | shlaFpRlt rd dsp4 => exact .two .shla rd (.mem (.fpRlt dsp4))
  | shlaReg rd rs => exact .two .shla rd (.reg rs)
  | shlaImm4 rd imm4 => exact .two .shla rd (.imm4 imm4)
  | shlaIndr rd rx => exact .two .shla rd (.mem (.indr rx))
  | shlaBIndr rd rx => exact .two .shla rd (.mem (.bIndr rx))
  | shllDrct rd dsp => exact .two .shll rd (.mem (.drct dsp))
  | shllIndex rd dsp rx => exact .two .shll rd (.mem (.index dsp rx))
  | shllImm rd imm => exact .two .shll rd (.imm imm)
  | shllFpRlt rd dsp4 => exact .two .shll rd (.mem (.fpRlt dsp4))
  | shllReg rd rs => exact .two .shll rd (.reg rs)
  | shllImm4 rd imm4 => exact .two .shll rd (.imm4 imm4)
  | shllIndr rd rx => exact .two .shll rd (.mem (.indr rx))
  | shllBIndr rd rx => exact .two .shll rd (.mem (.bIndr rx))
  | shraDrct rd dsp => exact .two .shra rd (.mem (.drct dsp))
  | shraIndex rd dsp rx => exact .two .shra rd (.mem (.index dsp rx))
  | shraImm rd imm => exact .two .shra rd (.imm imm)
  | shraFpRlt rd dsp4 => exact .two .shra rd (.mem (.fpRlt dsp4))
  | shraReg rd rs => exact .two .shra rd (.reg rs)
  | shraImm4 rd imm4 => exact .two .shra rd (.imm4 imm4)
  | shraIndr rd rx => exact .two .shra rd (.mem (.indr rx))
  | shraBIndr rd rx => exact .two .shra rd (.mem (.bIndr rx))
  | shrlDrct rd dsp => exact .two .shrl rd (.mem (.drct dsp))
  | shrlIndex rd dsp rx => exact .two .shrl rd (.mem (.index dsp rx))
  | shrlImm rd imm => exact .two .shrl rd (.imm imm)
  | shrlFpRlt rd dsp4 => exact .two .shrl rd (.mem (.fpRlt dsp4))
  | shrlReg rd rs => exact .two .shrl rd (.reg rs)
  | shrlImm4 rd imm4 => exact .two .shrl rd (.imm4 imm4)
  | shrlIndr rd rx => exact .two .shrl rd (.mem (.indr rx))
  | shrlBIndr rd rx => exact .two .shrl rd (.mem (.bIndr rx))
  | jzDrct dsp => exact .jump .jz (.drct dsp)
  | jzIndex dsp rx => exact .jump .jz (.index dsp rx)
  | jcDrct dsp => exact .jump .jc (.drct dsp)
  | jcIndex dsp rx => exact .jump .jc (.index dsp rx)
  | jmDrct dsp => exact .jump .jm (.drct dsp)
  | jmIndex dsp rx => exact .jump .jm (.index dsp rx)
  | joDrct dsp => exact .jump .jo (.drct dsp)
  | joIndex dsp rx => exact .jump .jo (.index dsp rx)
  | jgtDrct dsp => exact .jump .jgt (.drct dsp)
  | jgtIndex dsp rx => exact .jump .jgt (.index dsp rx)
  | jgeDrct dsp => exact .jump .jge (.drct dsp)
  | jgeIndex dsp rx => exact .jump .jge (.index dsp rx)
  | jleDrct dsp => exact .jump .jle (.drct dsp)
  | jleIndex dsp rx => exact .jump .jle (.index dsp rx)
  | jltDrct dsp => exact .jump .jlt (.drct dsp)
  | jltIndex dsp rx => exact .jump .jlt (.index dsp rx)
  | jnzDrct dsp => exact .jump .jnz (.drct dsp)
  | jnzIndex dsp rx => exact .jump .jnz (.index dsp rx)
  | jncDrct dsp => exact .jump .jnc (.drct dsp)
  | jncIndex dsp rx => exact .jump .jnc (.index dsp rx)
  | jnmDrct dsp => exact .jump .jnm (.drct dsp)
  | jnmIndex dsp rx => exact .jump .jnm (.index dsp rx)
  | jnoDrct dsp => exact .jump .jno (.drct dsp)
  | jnoIndex dsp rx => exact .jump .jno (.index dsp rx)
  | jhiDrct dsp => exact .jump .jhi (.drct dsp)
  | jhiIndex dsp rx => exact .jump .jhi (.index dsp rx)
  | jlsDrct dsp => exact .jump .jls (.drct dsp)
  | jlsIndex dsp rx => exact .jump .jls (.index dsp rx)
  | jmpDrct dsp => exact .jump .jmp (.drct dsp)
  | jmpIndex dsp rx => exact .jump .jmp (.index dsp rx)
  | callDrct dsp => exact .call (.drct dsp)
  | callIndex dsp rx => exact .call (.index dsp rx)
  | inDrct rd dsp => exact .input rd (.drct dsp)
  | inIndr rd rx => exact .input rd (.indr rx)
  | outDrct rd dsp => exact .output rd (.drct dsp)
  | outIndr rd rx => exact .output rd (.indr rx)
  | push rd => exact .push rd
  | pop rd => exact .pop rd
  | ret => exact .ret
  | reti => exact .reti
  | svc => exact .svc
  | halt => exact .halt

end Sys2Proof.Machine
end

