-- ==== Sys2Proof/Laws/Meanings.lean ====
section
/-! SUPPORT. For each shared meaning, what it answers and all it can answer: ST, CALL, PUSH, POP, RET, traps, IN, OUT and the
step. -/

namespace Sys2Proof.Machine

/-! ### What nothing changes -/

theorem sameIo_refl (s : State) : SameIo s s := ⟨rfl, rfl, rfl, rfl, rfl, rfl, rfl, rfl, rfl, rfl⟩

theorem sameIo_pushed (s : State) (v : Word) : SameIo s (pushed s v) := by simp [SameIo]

theorem sameIo_writeReg (s : State) (r : Reg) (v : Word) : SameIo s (writeReg s r v) := by simp [SameIo]

theorem sameIo_setStackPointer (s : State) (v : Word) : SameIo s (setStackPointer s v) := by simp [SameIo]

/-! ### The flag-changing instructions and LD -/

/-- A flag-changing instruction, in the words of `TwoOperandFrame`: its result in Rd, its FLAG, and the rest as it was. -/
theorem twoOperand_spec {s : State} {rd : Reg} {m : Mode} {compute : State → Word → Word → Access AluResult}
    {o : AluResult} (hrd : rd ≠ .flag) (hm : OperandReadable s m)
    (ho : compute s (readReg s rd) (operandValue s m) = .ok o) (hf : SameControlFlags s.flag o.flag) :
    ∃ t, twoOperand s rd m compute = .next t ∧ readReg t rd = o.value ∧ t.flag = o.flag ∧
      t.draws = s.draws + o.drawn ∧ TwoOperandFrame s t rd m := by
  refine ⟨_, twoOperand_eq hrd hm ho, ?_, rfl, rfl, ?_, hf, ?_, ?_, ?_, rfl⟩
  · rw [readReg_eq_cell]
    simp only [hf.2.1]
    cases hc : cellOf s.flag.p rd with
    | none => exact absurd (cellOf_eq_none.mp hc) hrd
    | some c =>
      have h1 := cellValue_writeReg s rd o.value c
      rw [if_pos hc] at h1
      exact (cellValue_congr rfl rfl rfl rfl c).trans h1
  · intro c hc
    rw [← writeReg_sameCellsBut s rd o.value c hc]
    exact cellValue_congr rfl rfl rfl rfl c
  · intro a _
    exact physByte_congr (by simp) (by simp) a
  · simp [SameIo]
  · simp [SameRun]

/-- S and Z of a result. -/
theorem setZS_spec (f : Flag) (r : Word) : SignZeroOf (f.setZS r) r := by
  constructor
  · simp [Flag.setZS]
  · simp only [Flag.setZS]
    rw [← BitVec.msb_eq_getLsbD_last (w := 16), BitVec.msb_eq_toInt]
    simp

/-! ### ST -/

/-- The state after the memory write of ST. -/
def stored (s : State) (m : MemMode) (v : Word) : State :=
  match m with
  | .bIndr rx => storeByte s (readReg s rx) (wordLo v)
  | .drct _ | .index _ _ | .fpRlt _ | .indr _ => storeWord s (effAddr s m) v

/-- The memory that ST needs. -/
def Storable (s : State) (m : MemMode) : Prop :=
  match m with
  | .bIndr rx => ByteWritable s (readReg s rx)
  | .drct _ | .index _ _ | .fpRlt _ | .indr _ => WordWritable s (effAddr s m)

theorem storeValue_eq {s : State} {m : MemMode} (h : Storable s m) (v : Word) :
    storeValue s m v = .ok (stored s m v) := by
  cases m with
  | bIndr rx => exact writeByte_eq h _
  | drct dsp => exact writeWord_eq h _
  | index dsp rx => exact writeWord_eq h _
  | fpRlt d => exact writeWord_eq h _
  | indr rx => exact writeWord_eq h _

/-- All the memory write of ST can answer. -/
theorem storeValue_ok {s t : State} {m : MemMode} {v : Word} (h : storeValue s m v = .ok t) :
    Storable s m ∧ t = stored s m v := by
  cases m with
  | bIndr rx => exact writeByte_ok h
  | drct dsp => exact writeWord_ok h
  | index dsp rx => exact writeWord_ok h
  | fpRlt d => exact writeWord_ok h
  | indr rx => exact writeWord_ok h

theorem store_eq {s : State} {rd : Reg} {m : MemMode} (h : Storable s m) :
    store s rd m = .next { stored s m (readReg s rd) with pc := s.pc + memModeBytes m } := by
  simp [store, storeValue_eq h]

/-- All ST can answer. -/
theorem store_next {s t : State} {rd : Reg} {m : MemMode} (h : store s rd m = .next t) :
    Storable s m ∧ t = { stored s m (readReg s rd) with pc := s.pc + memModeBytes m } := by
  cases hs : storeValue s m (readReg s rd) with
  | error e => simp only [store, hs] at h; exact absurd h (finish_error_ne_next e t)
  | ok u =>
    obtain ⟨hw, rfl⟩ := storeValue_ok hs
    simp only [store, hs, Host.Outcome.next.injEq] at h
    exact ⟨hw, h.symm⟩

/-! ### CALL, PUSH, POP, RET -/

theorem call_eq {s : State} (h : CanPush s) (g : Target) :
    call s g = .next { pushed s (nextTwo s) with pc := targetAddr s g } := by
  simp [call, push_eq h]

/-- All CALL can answer. -/
theorem call_next {s t : State} {g : Target} (h : call s g = .next t) :
    CanPush s ∧ t = { pushed s (nextTwo s) with pc := targetAddr s g } := by
  cases hp : push s (nextTwo s) with
  | error e => simp only [call, hp] at h; exact absurd h (finish_error_ne_next e t)
  | ok u =>
    obtain ⟨hc, rfl⟩ := push_ok hp
    simp only [call, hp, Host.Outcome.next.injEq] at h
    exact ⟨hc, h.symm⟩

theorem pushRegister_eq {s : State} {rd : Reg} (hr : namesStackPointer s rd = false) (h : CanPush s) :
    pushRegister s rd = .next { pushed s (readReg s rd) with pc := nextOne s } := by
  simp [pushRegister, hr, push_eq h]

/-- All PUSH can answer. -/
theorem pushRegister_next {s t : State} {rd : Reg} (h : pushRegister s rd = .next t) :
    namesStackPointer s rd = false ∧ CanPush s ∧ t = { pushed s (readReg s rd) with pc := nextOne s } := by
  cases hr : namesStackPointer s rd with
  | true => simp [pushRegister, hr] at h
  | false =>
    cases hp : push s (readReg s rd) with
    | error e =>
      simp only [pushRegister, hr, hp] at h
      exact absurd h (finish_error_ne_next e t)
    | ok u =>
      obtain ⟨hc, rfl⟩ := push_ok hp
      rw [pushRegister_eq hr hc] at h
      cases h
      exact ⟨rfl, hc, rfl⟩

theorem popRegister_eq {s : State} {rd : Reg} (hr : namesStackPointer s rd = false)
    (h : WordReadable s (stackPointer s)) :
    popRegister s rd =
      .next { writeReg (setStackPointer s (stackPointer s + 2#16)) rd (physWord s (stackPointer s)) with
              pc := nextOne s } := by
  simp [popRegister, hr, pop_eq h]

/-- All POP can answer. -/
theorem popRegister_next {s t : State} {rd : Reg} (h : popRegister s rd = .next t) :
    namesStackPointer s rd = false ∧ WordReadable s (stackPointer s) ∧
      t = { writeReg (setStackPointer s (stackPointer s + 2#16)) rd (physWord s (stackPointer s)) with
            pc := nextOne s } := by
  cases hr : namesStackPointer s rd with
  | true => simp [popRegister, hr] at h
  | false =>
    cases hp : pop s with
    | error e =>
      simp only [popRegister, hr, hp] at h
      exact absurd h (finish_error_ne_next e t)
    | ok r =>
      obtain ⟨hw, -, -⟩ := pop_ok (v := r.1) (t := r.2) hp
      rw [popRegister_eq hr hw] at h
      cases h
      exact ⟨rfl, hw, rfl⟩

theorem returnFromSubroutine_eq {s : State} (h : WordReadable s (stackPointer s)) :
    returnFromSubroutine s =
      .next { setStackPointer s (stackPointer s + 2#16) with pc := physWord s (stackPointer s) } := by
  simp [returnFromSubroutine, pop_eq h]

/-- All RET can answer. -/
theorem returnFromSubroutine_next {s t : State} (h : returnFromSubroutine s = .next t) :
    WordReadable s (stackPointer s) ∧
      t = { setStackPointer s (stackPointer s + 2#16) with pc := physWord s (stackPointer s) } := by
  cases hp : pop s with
  | error e => simp only [returnFromSubroutine, hp] at h; exact absurd h (finish_error_ne_next e t)
  | ok r =>
    obtain ⟨hw, -, -⟩ := pop_ok (v := r.1) (t := r.2) hp
    rw [returnFromSubroutine_eq hw] at h
    cases h
    exact ⟨hw, rfl⟩

/-! ### Traps -/

/-- All a trap entry changes, in the words of `TrapTaken`. -/
theorem trapEntry_taken {s t : State} {k : Fin 16} {saved : Word} (h : trapEntry s k saved = .ok t) :
    TrapTaken s t (vectorAddr k) saved ∧ t.interrupts = s.interrupts := by
  obtain ⟨hc, rfl⟩ := trapEntry_ok h
  obtain ⟨h1, h2⟩ := framed_canPush hc saved
  have hsp1 : stackPointer { s with flag := s.flag.enterTrap } = s.ssp := by simp [stackPointer, Flag.enterTrap]
  have hsp2 : stackPointer (pushed { s with flag := s.flag.enterTrap } saved) = s.ssp - 2#16 := by
    simp [stackPointer, pushed_ssp, Flag.enterTrap]
  have hb : ∀ x, physByte (framed s saved) x =
      if x = s.ssp - 4#16 then wordHi s.flag.toWord else if x = s.ssp - 3#16 then wordLo s.flag.toWord
      else if x = s.ssp - 2#16 then wordHi saved else if x = s.ssp - 1#16 then wordLo saved else physByte s x := by
    intro x
    have e1 : s.ssp - 2#16 - 2#16 = s.ssp - 4#16 := by bv_omega
    have e2 : s.ssp - 4#16 + 1#16 = s.ssp - 3#16 := by bv_omega
    have e3 : s.ssp - 2#16 + 1#16 = s.ssp - 1#16 := by bv_omega
    rw [framed, physByte_pushed h2, physByte_pushed h1, hsp1, hsp2, e1, e2, e3]
    rfl
  have n1 : ∀ x : Word, x - 2#16 ≠ x - 4#16 ∧ x - 2#16 ≠ x - 3#16 ∧ x - 1#16 ≠ x - 4#16 ∧ x - 1#16 ≠ x - 3#16 ∧
      x - 1#16 ≠ x - 2#16 ∧ x - 3#16 ≠ x - 4#16 := by intro x; refine ⟨?_, ?_, ?_, ?_, ?_, ?_⟩ <;> bv_omega
  obtain ⟨a1, a2, a3, a4, a5, a6⟩ := n1 s.ssp
  have e2 : s.ssp - 4#16 + 1#16 = s.ssp - 3#16 := by bv_omega
  have e3 : s.ssp - 2#16 + 1#16 = s.ssp - 1#16 := by bv_omega
  have hpb : ∀ (v x : Word), physByte { framed s saved with pc := v } x = physByte (framed s saved) x :=
    fun _ _ => physByte_congr rfl rfl _
  have hpw : ∀ (v x : Word), physWord { framed s saved with pc := v } x = physWord (framed s saved) x :=
    fun _ _ => physWord_congr rfl rfl _
  refine ⟨⟨?_, ?_, ?_, ?_, ?_, ?_, ?_, ?_, ?_, ?_⟩, ?_⟩
  · exact framed_flag s saved
  · exact framed_ssp s saved
  · intro c hcs
    cases c with
    | ssp => simp at hcs
    | usp => exact framed_usp s saved
    | g i => simp [framed, pushed, storeWord, storeByte]
    | fp => simp [framed, pushed, storeWord, storeByte]
  · rw [hpw]
    simp [physWord, hb, e3, a1, a2, a3, a4, a5, bytesToWord_hi_lo]
  · rw [hpw]
    simp [physWord, hb, e2, a6, bytesToWord_hi_lo]
  · intro x hx
    simp only [List.mem_cons, List.not_mem_nil, or_false, not_or] at hx
    rw [hpb, hb]
    simp [hx]
  · exact (hpw _ _).symm
  · simp [SameIo, framed]
  · simp [framed]
  · simp [framed]
  · simp [framed]

/-- A trap entry completes where its frame can be pushed. -/
theorem trapEntry_completes {s : State} (h : CanTrap s) (k : Fin 16) (saved : Word) :
    ∃ t, trapEntry s k saved = .ok t := ⟨_, trapEntry_eq h k saved⟩

/-! ### IN and OUT -/

theorem isIoAddress_iff (e : Word) : isIoAddress e = true ↔ e.toNat < 256 ∧ e.toNat % 2 = 0 := by
  have h : (wordHi e = 0#8) ↔ e.toNat < 256 := by
    rw [← BitVec.toNat_inj]
    have := e.isLt
    simp only [wordHi, BitVec.extractLsb'_toNat, Nat.shiftRight_eq_div_pow]
    simp
    omega
  simp only [isIoAddress, Bool.and_eq_true, decide_eq_true_eq, h, Bool.not_eq_true', isOdd_eq, decide_eq_false_iff_not]
  omega

theorem ioRow_toNat {e : Word} (h : e.toNat < 256) : (ioRow e).toNat = e.toNat := by
  simp only [ioRow, wordLo, BitVec.extractLsb'_toNat]
  simp
  omega

theorem input_eq {s : State} {rd : Reg} {m : PortMode} (hp : mayDoIo s = true) (ha : isIoAddress (portAddr s m) = true) :
    input s rd m =
      .next { writeReg { s with draws := s.draws + 1 } rd (ioAnswer s (ioRow (portAddr s m))) with
              pc := s.pc + portBytes m } := by
  simp [input, hp, ha, ioRead]

/-- All IN can answer: its answer in Rd, or the trap of a privilege violation. -/
theorem input_next {s t : State} {rd : Reg} {m : PortMode} (h : input s rd m = .next t) :
    (mayDoIo s = true ∧ isIoAddress (portAddr s m) = true ∧
      t = { writeReg { s with draws := s.draws + 1 } rd (ioAnswer s (ioRow (portAddr s m))) with
            pc := s.pc + portBytes m }) ∨
    (mayDoIo s = false ∧ trapEntry s privEntry s.pc = .ok t) := by
  cases hp : mayDoIo s with
  | false => simp only [input, hp] at h; exact .inr ⟨rfl, finish_next h⟩
  | true =>
    cases ha : isIoAddress (portAddr s m) with
    | false => simp [input, hp, ha] at h
    | true => rw [input_eq hp ha] at h; cases h; exact .inl ⟨rfl, rfl, rfl⟩

/-- All a write of an I/O row can answer. -/
theorem ioWrite_ok {s t : State} {a : BitVec 8} {v : Word} (h : ioWrite s a v = .ok t) :
    ∃ u, t = recordOutput u a v ∧
      ((a.toNat = 0x10 ∧ v.setWidth 3 = 0#3 ∧ u = s) ∨
       (a.toNat = 0xA0 ∧ v.getLsbD 0 = true ∧ u = { s with iplAttached := false }) ∨
       (a.toNat = 0xA2 ∧ v.getLsbD 0 = false ∧ u = { s with mmuEnable := false }) ∨
       (a.toNat = 0xA6 ∧ u = { s with pageTable := v }) ∨
       (isTlbRow a = true ∧ u = tlbWrite s a v) ∨
       (a.toNat ∉ [0x10, 0xA0, 0xA2, 0xA6] ∧ isTlbRow a = false ∧ u = s)) := by
  unfold ioWrite at h
  split at h
  · next ha =>
    split at h
    · next hv => cases h; exact ⟨_, rfl, .inl ⟨ha, hv, rfl⟩⟩
    · cases h
  · next ha =>
    split at h
    · next hv => cases h; exact ⟨_, rfl, .inr (.inl ⟨ha, hv, rfl⟩)⟩
    · cases h
  · next ha =>
    split at h
    · cases h
    · next hv => cases h; exact ⟨_, rfl, .inr (.inr (.inl ⟨ha, by simpa using hv, rfl⟩))⟩
  · next ha => cases h; exact ⟨_, rfl, .inr (.inr (.inr (.inl ⟨ha, rfl⟩)))⟩
  · next h1 h2 h3 h4 =>
    split at h
    · next ht => cases h; exact ⟨_, rfl, .inr (.inr (.inr (.inr (.inl ⟨ht, rfl⟩))))⟩
    · next ht =>
      cases h
      refine ⟨_, rfl, .inr (.inr (.inr (.inr (.inr ⟨?_, by simpa using ht, rfl⟩))))⟩
      simp only [List.mem_cons, List.not_mem_nil, or_false, not_or]
      exact ⟨h1, h2, h3, h4⟩

theorem output_eq {s u : State} {rd : Reg} {m : PortMode} (hp : mayDoIo s = true)
    (ha : isIoAddress (portAddr s m) = true) (hw : ioWrite s (ioRow (portAddr s m)) (readReg s rd) = .ok u) :
    output s rd m = .next { u with pc := s.pc + portBytes m } := by
  simp [output, hp, ha, hw]

/-- All OUT can answer: the write of its row, or the trap of a privilege violation. -/
theorem output_next {s t : State} {rd : Reg} {m : PortMode} (h : output s rd m = .next t) :
    (mayDoIo s = true ∧ isIoAddress (portAddr s m) = true ∧
      ∃ u, ioWrite s (ioRow (portAddr s m)) (readReg s rd) = .ok u ∧ t = { u with pc := s.pc + portBytes m }) ∨
    (mayDoIo s = false ∧ trapEntry s privEntry s.pc = .ok t) := by
  cases hp : mayDoIo s with
  | false => simp only [output, hp] at h; exact .inr ⟨rfl, finish_next h⟩
  | true =>
    cases ha : isIoAddress (portAddr s m) with
    | false => simp [output, hp, ha] at h
    | true =>
      cases hw : ioWrite s (ioRow (portAddr s m)) (readReg s rd) with
      | error e =>
        simp only [output, hp, ha, hw] at h
        exact absurd h (finish_error_ne_next e t)
      | ok u =>
        rw [output_eq hp ha hw] at h
        cases h
        exact .inl ⟨rfl, rfl, u, rfl, rfl⟩

/-! ### The step -/

/-- All a step can be: the trap entry of the interrupt taken at this boundary, or the fetched instruction. -/
theorem step_next {s t : State} (h : step s = .next t) :
    s.halted = false ∧ s.mmuEnable = false ∧
      ((∃ src, interruptTaken s = some src ∧ trapEntry (passBoundary s) src.entry s.pc = .ok t) ∨
       (interruptTaken s = none ∧ ∃ i, fetch (passBoundary s) = .ok i ∧ exec i (passBoundary s) = .next t)) := by
  cases hh : s.halted with
  | true => simp [step, hh] at h
  | false =>
    cases hm : s.mmuEnable with
    | true => simp [step, hh, hm] at h
    | false =>
      refine ⟨rfl, rfl, ?_⟩
      cases ht : interruptTaken s with
      | some src =>
        simp only [step, hh, hm, ht] at h
        exact .inl ⟨src, rfl, finish_next h⟩
      | none =>
        cases hf : fetch (passBoundary s) with
        | error e =>
          simp only [step, hh, hm, ht, hf] at h
          exact absurd h (finish_error_ne_next e t)
        | ok i =>
          simp only [step, hh, hm, ht, hf] at h
          exact .inr ⟨rfl, i, rfl, h⟩

/-- A step takes an interrupt only with E = 1. -/
theorem interruptTaken_some {s : State} {src : IntSource} (h : interruptTaken s = some src) :
    s.flag.e = true ∧ ∃ b rest, s.interrupts = b :: rest ∧ b.pick = some src ∧ src ∈ b.pending := by
  unfold interruptTaken at h
  split at h
  · cases h
  · next b rest hi =>
    split at h
    · cases h
    · next src' hp =>
      split at h
      · next hc =>
        cases h
        simp only [Bool.and_eq_true, List.contains_iff_mem] at hc
        exact ⟨hc.1, b, rest, hi, hp, hc.2⟩
      · cases h

theorem isOdd_vectorAddr (k : Fin 16) : isOdd (vectorAddr k) = false := by revert k; decide

end Sys2Proof.Machine
end

