-- ==== Sys2Proof/Laws/Steps.lean ====
section
/-! SUPPORT. All that an instruction can do, said once over the whole instruction set: the case analysis that an invariant
of the step starts from. -/

namespace Sys2Proof.Machine

/-- All a two-operand instruction can answer: LD writes Rd, CMP writes FLAG's lower bits, the others write both. -/
theorem twoMeaning_next {s t : State} {rd : Reg} {m : Mode} {op : TwoOp} (h : twoMeaning s rd m op = .next t) :
    (op = .ld ∧ t = { writeReg s rd (operandValue s m) with pc := s.pc + modeBytes m }) ∨
    (∃ f, op = .cmp ∧ SameControlFlags s.flag f ∧ t = { s with flag := f, pc := s.pc + modeBytes m }) ∨
    (rd ≠ .flag ∧ ∃ v f d, SameControlFlags s.flag f ∧
      t = { writeReg s rd v with flag := f, draws := d, pc := s.pc + modeBytes m }) := by
  have hshift : ∀ {n b : Nat} {o : Bool} {r : Word},
      SameControlFlags s.flag (if 16 ≤ b then s.flag.shiftBig n else s.flag.shift n b o r) := by
    intros; split <;> exact ⟨rfl, rfl, rfl, rfl⟩
  cases op
  case ld => exact .inl ⟨rfl, (load_next h).2⟩
  case cmp =>
    exact .inr (.inl ⟨s.flag.sub (readReg s rd) (operandValue s m), rfl, ⟨rfl, rfl, rfl, rfl⟩, (compare_next h).2⟩)
  all_goals
    simp only [twoMeaning, add, subtract, logicalAnd, logicalOr, logicalXor, addScaled, multiply, divide, modulo,
      shiftLeftArithmetic, shiftLeftLogical, shiftRightArithmetic, shiftRightLogical] at h
    obtain ⟨h1, h2, o, h3, h4⟩ := twoOperand_next h
    refine .inr (.inr ⟨h1, o.value, o.flag, _, ?_, h4⟩)
    first
    | (cases h3; exact ⟨rfl, rfl, rfl, rfl⟩)
    | (cases h3; exact hshift)
    | (simp only [quotient, remainder] at h3
       split at h3
       · cases h3
       · cases h3; exact ⟨rfl, rfl, rfl, rfl⟩)

/-- What a register write leaves alone in user mode: SSP, and E, P and I of FLAG. -/
theorem writeReg_user (s : State) (rd : Reg) (v : Word) (hp : s.flag.p = false) :
    (writeReg s rd v).ssp = s.ssp ∧ (writeReg s rd v).flag.e = s.flag.e ∧ (writeReg s rd v).flag.i = s.flag.i ∧
      (writeReg s rd v).flag.p = false := by
  cases rd <;> simp [writeReg, setStackPointer, hp, Flag.write]

/-- `t` is what an instruction that takes no trap, is not HALT and writes no I/O row can make of `s`: the I/O side, the
halted state and the supply of interrupts as they were, memory still in canonical form, and in user mode SSP and the
protected bits of FLAG as they were. -/
def PlainNext (s t : State) : Prop :=
  t.halted = s.halted ∧ t.interrupts = s.interrupts ∧ SameIo s t ∧
    (Memory.wf s.mem = true → Memory.wf t.mem = true) ∧
    (s.flag.p = false →
      t.ssp = s.ssp ∧ t.flag.e = s.flag.e ∧ t.flag.i = s.flag.i ∧ t.flag.p = false)

/-- All an instruction can do: take a trap, halt, write an I/O row, or none of these. -/
theorem exec_next {s t : State} {i : Instr} (h : exec i s = .next t) :
    (∃ k saved, trapEntry s k saved = .ok t ∧
      ((i = .svc ∧ k = svcEntry ∧ saved = s.pc + 2#16) ∨ (k = privEntry ∧ saved = s.pc ∧ s.flag.p = false))) ∨
    (i = .halt ∧ s.flag.p = true ∧ t = { s with pc := s.pc + 2#16, halted := true }) ∨
    (∃ rd m u, i = mkOut rd m ∧ mayDoIo s = true ∧ isIoAddress (portAddr s m) = true ∧
      ioWrite s (ioRow (portAddr s m)) (readReg s rd) = .ok u ∧ t = { u with pc := s.pc + portBytes m }) ∨
    PlainNext s t := by
  cases instr_forms i with
  | no => cases h; exact .inr (.inr (.inr ⟨rfl, rfl, sameIo_refl s, id, fun h => ⟨rfl, rfl, rfl, h⟩⟩))
  | two op rd m =>
    rw [exec_mkTwo] at h
    refine .inr (.inr (.inr ?_))
    rcases twoMeaning_next h with ⟨rfl, rfl⟩ | ⟨f, rfl, hf, rfl⟩ | ⟨hrd, v, f, d, hf, rfl⟩
    · exact ⟨by simp, by simp, sameIo_writeReg s _ _, by simp, writeReg_user s _ _⟩
    · exact ⟨rfl, rfl, sameIo_refl s, id, fun h => ⟨rfl, hf.1, hf.2.2.1, by rw [← h]; exact hf.2.1⟩⟩
    · exact ⟨by simp, by simp, sameIo_writeReg s _ _, by simp,
        fun hp => ⟨(writeReg_user s rd v hp).1, hf.1, hf.2.2.1, by rw [← hp]; exact hf.2.1⟩⟩
  | st rd m =>
    rw [exec_mkSt] at h
    obtain ⟨h1, rfl⟩ := store_next h
    refine .inr (.inr (.inr ?_))
    cases m <;>
      exact ⟨rfl, rfl, sameIo_refl s, fun hw => by first | exact storeWord_wf hw | exact storeByte_wf hw,
        fun h => ⟨rfl, rfl, rfl, h⟩⟩
  | jump c g =>
    rw [exec_mkJump] at h
    cases h
    exact .inr (.inr (.inr ⟨rfl, rfl, sameIo_refl s, id, fun h => ⟨rfl, rfl, rfl, h⟩⟩))
  | call g =>
    rw [exec_mkCall] at h
    obtain ⟨h1, rfl⟩ := call_next h
    exact .inr (.inr (.inr ⟨by simp, by simp, sameIo_pushed s (nextTwo s), fun hw => pushed_wf (nextTwo s) hw,
      fun h => ⟨by simp [pushed_ssp, h], by simp, by simp, by simp [h]⟩⟩))
  | input rd m =>
    rw [exec_mkIn] at h
    rcases input_next h with ⟨h1, h2, rfl⟩ | ⟨h1, h2⟩
    · exact .inr (.inr (.inr ⟨by simp, by simp, by simp [SameIo], by simp,
        fun hp => writeReg_user { s with draws := s.draws + 1 } rd _ hp⟩))
    · simp only [mayDoIo, Bool.or_eq_false_iff] at h1
      exact .inl ⟨_, _, h2, .inr ⟨rfl, rfl, h1.1⟩⟩
  | output rd m =>
    rw [exec_mkOut] at h
    rcases output_next h with ⟨h1, h2, u, hu, rfl⟩ | ⟨h1, h2⟩
    · exact .inr (.inr (.inl ⟨rd, m, u, rfl, h1, h2, hu, rfl⟩))
    · simp only [mayDoIo, Bool.or_eq_false_iff] at h1
      exact .inl ⟨_, _, h2, .inr ⟨rfl, rfl, h1.1⟩⟩
  | push rd =>
    rw [exec_push] at h
    obtain ⟨h1, h2, rfl⟩ := pushRegister_next h
    exact .inr (.inr (.inr ⟨by simp, by simp, sameIo_pushed s (readReg s rd),
      fun hw => pushed_wf (readReg s rd) hw, fun h => ⟨by simp [pushed_ssp, h], by simp, by simp, by simp [h]⟩⟩))
  | pop rd =>
    rw [exec_pop] at h
    obtain ⟨h1, h2, rfl⟩ := popRegister_next h
    refine .inr (.inr (.inr ⟨by simp, by simp, by simp [SameIo], by simp, fun hp => ?_⟩))
    obtain ⟨a, b, c, d⟩ := writeReg_user (setStackPointer s (stackPointer s + 2#16)) rd (physWord s (stackPointer s))
      (by simpa using hp)
    exact ⟨a.trans (by simp [setStackPointer, hp]), b.trans (by simp), c.trans (by simp), d⟩
  | ret =>
    rw [exec_ret] at h
    obtain ⟨h1, rfl⟩ := returnFromSubroutine_next h
    exact .inr (.inr (.inr ⟨by simp, by simp, by simp [SameIo], by simp,
      fun hp => ⟨by simp [setStackPointer, hp], by simp, by simp, by simp [hp]⟩⟩))
  | reti =>
    rw [exec_reti] at h
    obtain ⟨h1, rfl⟩ := trapReturn_ok (finish_next h)
    exact .inr (.inr (.inr ⟨by simp, by simp, by simp [SameIo], by simp, fun hp =>
      ⟨by simp [setStackPointer, hp], by simp [Flag.write, hp], by simp [Flag.write, hp],
        by simp [Flag.write, hp]⟩⟩))
  | svc =>
    rw [exec_svc] at h
    exact .inl ⟨_, _, finish_next h, .inl ⟨rfl, rfl, rfl⟩⟩
  | halt =>
    rw [exec_halt] at h
    cases hp : s.flag.p with
    | true =>
      simp only [halt, hp, nextOne] at h
      cases h
      exact .inr (.inl ⟨rfl, rfl, rfl⟩)
    | false =>
      simp only [halt, hp] at h
      exact .inl ⟨_, _, finish_next h, .inr ⟨rfl, rfl, rfl⟩⟩

/-- All that a write of an I/O row changes outside the device registers. -/
theorem ioWrite_frame {s u : State} {a : BitVec 8} {v : Word} (h : ioWrite s a v = .ok u) :
    u.halted = s.halted ∧ u.interrupts = s.interrupts ∧ u.mem = s.mem ∧ u.ssp = s.ssp ∧ u.flag = s.flag ∧
      u.outputs = s.outputs ++ [{ row := a, value := reachesDevice a v }] ∧
      (s.mmuEnable = false → u.mmuEnable = false) ∧
      (u.iplAttached = s.iplAttached ∨ (u.iplAttached = false ∧ a = 0xA0#8)) := by
  obtain ⟨w, rfl, hc⟩ := ioWrite_ok h
  rcases hc with ⟨_, _, rfl⟩ | ⟨ha, _, rfl⟩ | ⟨_, _, rfl⟩ | ⟨_, rfl⟩ | ⟨_, rfl⟩ | ⟨_, _, rfl⟩
  · exact ⟨rfl, rfl, rfl, rfl, rfl, rfl, id, .inl rfl⟩
  · exact ⟨rfl, rfl, rfl, rfl, rfl, rfl, id, .inr ⟨rfl, BitVec.eq_of_toNat_eq ha⟩⟩
  · exact ⟨rfl, rfl, rfl, rfl, rfl, rfl, fun _ => rfl, .inl rfl⟩
  · exact ⟨rfl, rfl, rfl, rfl, rfl, rfl, id, .inl rfl⟩
  · exact ⟨rfl, rfl, rfl, rfl, rfl, rfl, id, .inl rfl⟩
  · exact ⟨rfl, rfl, rfl, rfl, rfl, rfl, id, .inl rfl⟩

end Sys2Proof.Machine
end

