-- ==== Sys2Proof/Tests/Slice0.lean ====
section
/-! SUPPORT. Tests: the well-formedness checks refuse ill-formed terms; every constructor's decoding on a word written out
from the spec's encoding (30_encoding.md R104, R120 to R125); single steps with the results of 95_test_vectors.md; and for
each obligation with hypotheses a concrete state and operands that meet them. -/

namespace Sys2Proof.Tests

open Sys2Proof Sys2Proof.Machine

/-! ### Well-formedness -/

theorem test_odd_displacement_is_ill_formed : (Instr.ldFpRlt (.g 0) 3).wellFormed = false := by decide

theorem test_displacement_above_14_is_ill_formed : (Instr.stFpRlt (.g 0) 16).wellFormed = false := by decide

theorem test_displacement_below_minus_16_is_ill_formed : (Instr.addFpRlt (.g 0) (-18)).wellFormed = false := by decide

theorem test_immediate_above_7_is_ill_formed : (Instr.cmpImm4 (.g 0) 8).wellFormed = false := by decide

theorem test_immediate_below_minus_8_is_ill_formed : (Instr.ldImm4 (.g 0) (-9)).wellFormed = false := by decide

theorem test_mode_check_refuses_what_the_instruction_check_refuses :
    (Mode.mem (.fpRlt 1)).wellFormed = false ∧ (Mode.imm4 100).wellFormed = false := by decide

/-! ### Decoding: OP is OP[7:3] * 8 + mode (30_encoding.md R104, R120), Rd = 2, Rx = 5, D4 = Fh (-2), I4 = Dh (-3), second
word 1234h -/

theorem test_decode_ld :
    [decodeTableWord 32 0x12340820, decodeTableWord 32 0x12340925, decodeTableWord 32 0x12340A20, decodeTableWord 16 0x0B2F, decodeTableWord 16 0x0C25, decodeTableWord 16 0x0D2D, decodeTableWord 16 0x0E25, decodeTableWord 16 0x0F25] =
      [some (.ldDrct (.g 2) 0x1234), some (.ldIndex (.g 2) 0x1234 (.g 5)), some (.ldImm (.g 2) 0x1234), some (.ldFpRlt (.g 2) (-2)), some (.ldReg (.g 2) (.g 5)), some (.ldImm4 (.g 2) (-3)), some (.ldIndr (.g 2) (.g 5)), some (.ldBIndr (.g 2) (.g 5))] := by decide

theorem test_decode_add :
    [decodeTableWord 32 0x12341820, decodeTableWord 32 0x12341925, decodeTableWord 32 0x12341A20, decodeTableWord 16 0x1B2F, decodeTableWord 16 0x1C25, decodeTableWord 16 0x1D2D, decodeTableWord 16 0x1E25, decodeTableWord 16 0x1F25] =
      [some (.addDrct (.g 2) 0x1234), some (.addIndex (.g 2) 0x1234 (.g 5)), some (.addImm (.g 2) 0x1234), some (.addFpRlt (.g 2) (-2)), some (.addReg (.g 2) (.g 5)), some (.addImm4 (.g 2) (-3)), some (.addIndr (.g 2) (.g 5)), some (.addBIndr (.g 2) (.g 5))] := by decide

theorem test_decode_sub :
    [decodeTableWord 32 0x12342020, decodeTableWord 32 0x12342125, decodeTableWord 32 0x12342220, decodeTableWord 16 0x232F, decodeTableWord 16 0x2425, decodeTableWord 16 0x252D, decodeTableWord 16 0x2625, decodeTableWord 16 0x2725] =
      [some (.subDrct (.g 2) 0x1234), some (.subIndex (.g 2) 0x1234 (.g 5)), some (.subImm (.g 2) 0x1234), some (.subFpRlt (.g 2) (-2)), some (.subReg (.g 2) (.g 5)), some (.subImm4 (.g 2) (-3)), some (.subIndr (.g 2) (.g 5)), some (.subBIndr (.g 2) (.g 5))] := by decide

theorem test_decode_cmp :
    [decodeTableWord 32 0x12342820, decodeTableWord 32 0x12342925, decodeTableWord 32 0x12342A20, decodeTableWord 16 0x2B2F, decodeTableWord 16 0x2C25, decodeTableWord 16 0x2D2D, decodeTableWord 16 0x2E25, decodeTableWord 16 0x2F25] =
      [some (.cmpDrct (.g 2) 0x1234), some (.cmpIndex (.g 2) 0x1234 (.g 5)), some (.cmpImm (.g 2) 0x1234), some (.cmpFpRlt (.g 2) (-2)), some (.cmpReg (.g 2) (.g 5)), some (.cmpImm4 (.g 2) (-3)), some (.cmpIndr (.g 2) (.g 5)), some (.cmpBIndr (.g 2) (.g 5))] := by decide

theorem test_decode_and :
    [decodeTableWord 32 0x12343020, decodeTableWord 32 0x12343125, decodeTableWord 32 0x12343220, decodeTableWord 16 0x332F, decodeTableWord 16 0x3425, decodeTableWord 16 0x352D, decodeTableWord 16 0x3625, decodeTableWord 16 0x3725] =
      [some (.andDrct (.g 2) 0x1234), some (.andIndex (.g 2) 0x1234 (.g 5)), some (.andImm (.g 2) 0x1234), some (.andFpRlt (.g 2) (-2)), some (.andReg (.g 2) (.g 5)), some (.andImm4 (.g 2) (-3)), some (.andIndr (.g 2) (.g 5)), some (.andBIndr (.g 2) (.g 5))] := by decide

theorem test_decode_or :
    [decodeTableWord 32 0x12343820, decodeTableWord 32 0x12343925, decodeTableWord 32 0x12343A20, decodeTableWord 16 0x3B2F, decodeTableWord 16 0x3C25, decodeTableWord 16 0x3D2D, decodeTableWord 16 0x3E25, decodeTableWord 16 0x3F25] =
      [some (.orDrct (.g 2) 0x1234), some (.orIndex (.g 2) 0x1234 (.g 5)), some (.orImm (.g 2) 0x1234), some (.orFpRlt (.g 2) (-2)), some (.orReg (.g 2) (.g 5)), some (.orImm4 (.g 2) (-3)), some (.orIndr (.g 2) (.g 5)), some (.orBIndr (.g 2) (.g 5))] := by decide

theorem test_decode_xor :
    [decodeTableWord 32 0x12344020, decodeTableWord 32 0x12344125, decodeTableWord 32 0x12344220, decodeTableWord 16 0x432F, decodeTableWord 16 0x4425, decodeTableWord 16 0x452D, decodeTableWord 16 0x4625, decodeTableWord 16 0x4725] =
      [some (.xorDrct (.g 2) 0x1234), some (.xorIndex (.g 2) 0x1234 (.g 5)), some (.xorImm (.g 2) 0x1234), some (.xorFpRlt (.g 2) (-2)), some (.xorReg (.g 2) (.g 5)), some (.xorImm4 (.g 2) (-3)), some (.xorIndr (.g 2) (.g 5)), some (.xorBIndr (.g 2) (.g 5))] := by decide

theorem test_decode_adds :
    [decodeTableWord 32 0x12344820, decodeTableWord 32 0x12344925, decodeTableWord 32 0x12344A20, decodeTableWord 16 0x4B2F, decodeTableWord 16 0x4C25, decodeTableWord 16 0x4D2D, decodeTableWord 16 0x4E25, decodeTableWord 16 0x4F25] =
      [some (.addsDrct (.g 2) 0x1234), some (.addsIndex (.g 2) 0x1234 (.g 5)), some (.addsImm (.g 2) 0x1234), some (.addsFpRlt (.g 2) (-2)), some (.addsReg (.g 2) (.g 5)), some (.addsImm4 (.g 2) (-3)), some (.addsIndr (.g 2) (.g 5)), some (.addsBIndr (.g 2) (.g 5))] := by decide

theorem test_decode_mul :
    [decodeTableWord 32 0x12345020, decodeTableWord 32 0x12345125, decodeTableWord 32 0x12345220, decodeTableWord 16 0x532F, decodeTableWord 16 0x5425, decodeTableWord 16 0x552D, decodeTableWord 16 0x5625, decodeTableWord 16 0x5725] =
      [some (.mulDrct (.g 2) 0x1234), some (.mulIndex (.g 2) 0x1234 (.g 5)), some (.mulImm (.g 2) 0x1234), some (.mulFpRlt (.g 2) (-2)), some (.mulReg (.g 2) (.g 5)), some (.mulImm4 (.g 2) (-3)), some (.mulIndr (.g 2) (.g 5)), some (.mulBIndr (.g 2) (.g 5))] := by decide

theorem test_decode_div :
    [decodeTableWord 32 0x12345820, decodeTableWord 32 0x12345925, decodeTableWord 32 0x12345A20, decodeTableWord 16 0x5B2F, decodeTableWord 16 0x5C25, decodeTableWord 16 0x5D2D, decodeTableWord 16 0x5E25, decodeTableWord 16 0x5F25] =
      [some (.divDrct (.g 2) 0x1234), some (.divIndex (.g 2) 0x1234 (.g 5)), some (.divImm (.g 2) 0x1234), some (.divFpRlt (.g 2) (-2)), some (.divReg (.g 2) (.g 5)), some (.divImm4 (.g 2) (-3)), some (.divIndr (.g 2) (.g 5)), some (.divBIndr (.g 2) (.g 5))] := by decide

theorem test_decode_mod :
    [decodeTableWord 32 0x12346020, decodeTableWord 32 0x12346125, decodeTableWord 32 0x12346220, decodeTableWord 16 0x632F, decodeTableWord 16 0x6425, decodeTableWord 16 0x652D, decodeTableWord 16 0x6625, decodeTableWord 16 0x6725] =
      [some (.modDrct (.g 2) 0x1234), some (.modIndex (.g 2) 0x1234 (.g 5)), some (.modImm (.g 2) 0x1234), some (.modFpRlt (.g 2) (-2)), some (.modReg (.g 2) (.g 5)), some (.modImm4 (.g 2) (-3)), some (.modIndr (.g 2) (.g 5)), some (.modBIndr (.g 2) (.g 5))] := by decide

theorem test_decode_shla :
    [decodeTableWord 32 0x12348020, decodeTableWord 32 0x12348125, decodeTableWord 32 0x12348220, decodeTableWord 16 0x832F, decodeTableWord 16 0x8425, decodeTableWord 16 0x852D, decodeTableWord 16 0x8625, decodeTableWord 16 0x8725] =
      [some (.shlaDrct (.g 2) 0x1234), some (.shlaIndex (.g 2) 0x1234 (.g 5)), some (.shlaImm (.g 2) 0x1234), some (.shlaFpRlt (.g 2) (-2)), some (.shlaReg (.g 2) (.g 5)), some (.shlaImm4 (.g 2) (-3)), some (.shlaIndr (.g 2) (.g 5)), some (.shlaBIndr (.g 2) (.g 5))] := by decide

theorem test_decode_shll :
    [decodeTableWord 32 0x12348820, decodeTableWord 32 0x12348925, decodeTableWord 32 0x12348A20, decodeTableWord 16 0x8B2F, decodeTableWord 16 0x8C25, decodeTableWord 16 0x8D2D, decodeTableWord 16 0x8E25, decodeTableWord 16 0x8F25] =
      [some (.shllDrct (.g 2) 0x1234), some (.shllIndex (.g 2) 0x1234 (.g 5)), some (.shllImm (.g 2) 0x1234), some (.shllFpRlt (.g 2) (-2)), some (.shllReg (.g 2) (.g 5)), some (.shllImm4 (.g 2) (-3)), some (.shllIndr (.g 2) (.g 5)), some (.shllBIndr (.g 2) (.g 5))] := by decide

theorem test_decode_shra :
    [decodeTableWord 32 0x12349020, decodeTableWord 32 0x12349125, decodeTableWord 32 0x12349220, decodeTableWord 16 0x932F, decodeTableWord 16 0x9425, decodeTableWord 16 0x952D, decodeTableWord 16 0x9625, decodeTableWord 16 0x9725] =
      [some (.shraDrct (.g 2) 0x1234), some (.shraIndex (.g 2) 0x1234 (.g 5)), some (.shraImm (.g 2) 0x1234), some (.shraFpRlt (.g 2) (-2)), some (.shraReg (.g 2) (.g 5)), some (.shraImm4 (.g 2) (-3)), some (.shraIndr (.g 2) (.g 5)), some (.shraBIndr (.g 2) (.g 5))] := by decide

theorem test_decode_shrl :
    [decodeTableWord 32 0x12349820, decodeTableWord 32 0x12349925, decodeTableWord 32 0x12349A20, decodeTableWord 16 0x9B2F, decodeTableWord 16 0x9C25, decodeTableWord 16 0x9D2D, decodeTableWord 16 0x9E25, decodeTableWord 16 0x9F25] =
      [some (.shrlDrct (.g 2) 0x1234), some (.shrlIndex (.g 2) 0x1234 (.g 5)), some (.shrlImm (.g 2) 0x1234), some (.shrlFpRlt (.g 2) (-2)), some (.shrlReg (.g 2) (.g 5)), some (.shrlImm4 (.g 2) (-3)), some (.shrlIndr (.g 2) (.g 5)), some (.shrlBIndr (.g 2) (.g 5))] := by decide

theorem test_decode_st :
    [decodeTableWord 32 0x12341020, decodeTableWord 32 0x12341125, decodeTableWord 16 0x132F, decodeTableWord 16 0x1625, decodeTableWord 16 0x1725] =
      [some (.stDrct (.g 2) 0x1234), some (.stIndex (.g 2) 0x1234 (.g 5)), some (.stFpRlt (.g 2) (-2)), some (.stIndr (.g 2) (.g 5)), some (.stBIndr (.g 2) (.g 5))] := by decide

theorem test_decode_jz :
    [decodeTableWord 32 0x1234A000, decodeTableWord 32 0x1234A105] =
      [some (.jzDrct 0x1234), some (.jzIndex 0x1234 (.g 5))] := by decide

theorem test_decode_jc :
    [decodeTableWord 32 0x1234A010, decodeTableWord 32 0x1234A115] =
      [some (.jcDrct 0x1234), some (.jcIndex 0x1234 (.g 5))] := by decide

theorem test_decode_jm :
    [decodeTableWord 32 0x1234A020, decodeTableWord 32 0x1234A125] =
      [some (.jmDrct 0x1234), some (.jmIndex 0x1234 (.g 5))] := by decide

theorem test_decode_jo :
    [decodeTableWord 32 0x1234A030, decodeTableWord 32 0x1234A135] =
      [some (.joDrct 0x1234), some (.joIndex 0x1234 (.g 5))] := by decide

theorem test_decode_jgt :
    [decodeTableWord 32 0x1234A040, decodeTableWord 32 0x1234A145] =
      [some (.jgtDrct 0x1234), some (.jgtIndex 0x1234 (.g 5))] := by decide

theorem test_decode_jge :
    [decodeTableWord 32 0x1234A050, decodeTableWord 32 0x1234A155] =
      [some (.jgeDrct 0x1234), some (.jgeIndex 0x1234 (.g 5))] := by decide

theorem test_decode_jle :
    [decodeTableWord 32 0x1234A060, decodeTableWord 32 0x1234A165] =
      [some (.jleDrct 0x1234), some (.jleIndex 0x1234 (.g 5))] := by decide

theorem test_decode_jlt :
    [decodeTableWord 32 0x1234A070, decodeTableWord 32 0x1234A175] =
      [some (.jltDrct 0x1234), some (.jltIndex 0x1234 (.g 5))] := by decide

theorem test_decode_jnz :
    [decodeTableWord 32 0x1234A080, decodeTableWord 32 0x1234A185] =
      [some (.jnzDrct 0x1234), some (.jnzIndex 0x1234 (.g 5))] := by decide

theorem test_decode_jnc :
    [decodeTableWord 32 0x1234A090, decodeTableWord 32 0x1234A195] =
      [some (.jncDrct 0x1234), some (.jncIndex 0x1234 (.g 5))] := by decide

theorem test_decode_jnm :
    [decodeTableWord 32 0x1234A0A0, decodeTableWord 32 0x1234A1A5] =
      [some (.jnmDrct 0x1234), some (.jnmIndex 0x1234 (.g 5))] := by decide

theorem test_decode_jno :
    [decodeTableWord 32 0x1234A0B0, decodeTableWord 32 0x1234A1B5] =
      [some (.jnoDrct 0x1234), some (.jnoIndex 0x1234 (.g 5))] := by decide

theorem test_decode_jhi :
    [decodeTableWord 32 0x1234A0C0, decodeTableWord 32 0x1234A1C5] =
      [some (.jhiDrct 0x1234), some (.jhiIndex 0x1234 (.g 5))] := by decide

theorem test_decode_jls :
    [decodeTableWord 32 0x1234A0E0, decodeTableWord 32 0x1234A1E5] =
      [some (.jlsDrct 0x1234), some (.jlsIndex 0x1234 (.g 5))] := by decide

theorem test_decode_jmp :
    [decodeTableWord 32 0x1234A0F0, decodeTableWord 32 0x1234A1F5] =
      [some (.jmpDrct 0x1234), some (.jmpIndex 0x1234 (.g 5))] := by decide

theorem test_decode_call :
    [decodeTableWord 32 0x1234A800, decodeTableWord 32 0x1234A905] =
      [some (.callDrct 0x1234), some (.callIndex 0x1234 (.g 5))] := by decide

theorem test_decode_in :
    [decodeTableWord 32 0x1234B020, decodeTableWord 16 0xB625] =
      [some (.inDrct (.g 2) 0x1234), some (.inIndr (.g 2) (.g 5))] := by decide

theorem test_decode_out :
    [decodeTableWord 32 0x1234B820, decodeTableWord 16 0xBE25] =
      [some (.outDrct (.g 2) 0x1234), some (.outIndr (.g 2) (.g 5))] := by decide

theorem test_decode_push :
    [decodeTableWord 16 0xC020] =
      [some (.push (.g 2))] := by decide

theorem test_decode_pop :
    [decodeTableWord 16 0xC420] =
      [some (.pop (.g 2))] := by decide

theorem test_decode_no :
    [decodeTableWord 16 0x0000] =
      [some .no] := by decide

theorem test_decode_ret :
    [decodeTableWord 16 0xD000] =
      [some .ret] := by decide

theorem test_decode_reti :
    [decodeTableWord 16 0xD4F0] =
      [some .reti] := by decide

theorem test_decode_svc :
    [decodeTableWord 16 0xF000] =
      [some .svc] := by decide

theorem test_decode_halt :
    [decodeTableWord 16 0xFF00] =
      [some .halt] := by decide

/-- 95_test_vectors.md 2.1: first words no row defines, one at least for each item of 30_encoding.md R123. -/
theorem test_undefined_first_words_are_illegal :
    [0x1200#16, 0x1400#16, 0x1500#16, 0x0100#16, 0x0700#16, 0x6800#16, 0x7FFF#16, 0xC800#16, 0xD800#16, 0xE000#16, 0xE8FF#16,
      0xA0D0#16, 0xA1D3#16, 0xA200#16, 0xAA00#16, 0xB100#16, 0xB700#16, 0xBF00#16, 0xC100#16, 0xC500#16, 0xD100#16, 0xD500#16,
      0xF100#16, 0xF800#16, 0xFE00#16].map (fun w => decodeWords w 0x1234#16) = List.replicate 25 (.error .illegal) := by
  decide

/-- 95_test_vectors.md 2.1: defined opcodes with a wrong fixed field. -/
theorem test_wrong_fixed_fields_are_refused :
    [0x0001#16, 0x0010#16, 0x0805#16, 0x0A01#16, 0xA810#16, 0xC011#16, 0xD001#16, 0xD400#16, 0xD4F1#16, 0xF001#16, 0xFF01#16,
      0xFFFF#16].map (fun w => decodeWords w 0x1234#16) = List.replicate 12 (.error .fixedField) := by decide

/-- 95_test_vectors.md 2.1: which first words have a second. -/
theorem test_lengths :
    [0x0800#16, 0x0900#16, 0x0A00#16, 0xA000#16, 0xA100#16, 0xA800#16, 0xA900#16, 0xB000#16, 0xB800#16].all hasSecondWord =
        true ∧
      [0x0B00#16, 0x0C00#16, 0x0D00#16, 0x0E00#16, 0x0F00#16, 0xB600#16, 0xBE00#16, 0xC000#16, 0xC400#16, 0xD000#16,
        0xD4F0#16, 0xF000#16, 0xFF00#16, 0x0000#16].any hasSecondWord = false := by decide

/-! ### Single steps (95_test_vectors.md part 2) -/

/-- pc = 0100h, FLAG = 0040h, the IPL ROM detached. -/
def base : State := { State.reset with pc := 0x100, iplAttached := false }

/-- `s` with bytes written from an address on. -/
def withBytes (s : State) (a : Word) (bs : List Byte) : State := { s with mem := storeBytes s.mem a bs }

/-- `s` with FLAG. -/
def withFlag (s : State) (w : Word) : State := { s with flag := Flag.ofWord w }

/-- `s` with a general register. -/
def withG (s : State) (i : Fin 12) (v : Word) : State := writeReg s (.g i) v

/-- `base` with G0 and G1. -/
def withOperands (a b : Word) : State := withG (withG base 0 a) 1 b

/-- `s` with the words of an instruction at PC. -/
def place (s : State) (ws : List Word) : State := placeAtPc s (ws.flatMap fun w => [wordHi w, wordLo w])

/-- Whether one step of the instruction from `s` gives a state with property `p`. -/
def after (s : State) (ws : List Word) (p : State → Bool) : Bool :=
  match step (place s ws) with
  | .next t => p t
  | .fault _ | .refused _ => false

/-- Whether one step of the instruction from `s` is the fault `f`. -/
def faults (s : State) (ws : List Word) (f : Fault) : Bool :=
  match step (place s ws) with
  | .fault g => decide (g = f)
  | .next _ | .refused _ => false

/-- Whether one step of the instruction from `s` is the refusal `r`. -/
def refuses (s : State) (ws : List Word) (r : Refusal) : Bool :=
  match step (place s ws) with
  | .refused q => decide (q = r)
  | .next _ | .fault _ => false

/-- G0. -/
def g0 (t : State) : Word := readReg t (.g 0)

/-- S and Z as a number. -/
def sz (t : State) : Nat := 2 * t.flag.s.toNat + t.flag.z.toNat

/-- The common start of 2.2: G1 = 0200h, FP = 0300h, Mem[0200h..0203h] = AB CD 00 7F, Mem[02FEh..02FFh] = BE EF. -/
def memStart : State :=
  withBytes (withBytes (withG { base with fp := 0x300 } 1 0x200) 0x200 [0xAB, 0xCD, 0x00, 0x7F]) 0x2FE [0xBE, 0xEF]

theorem test_no : after memStart [0x0000] (fun t => t.pc = 0x102 && t.g = memStart.g && t.flag = base.flag) = true := by decide

theorem test_ld_direct :
    after memStart [0x0800, 0x0200] (fun t => t.pc = 0x104 && g0 t = 0xABCD && t.flag.toWord = 0x40) = true := by decide

theorem test_ld_indexed_wraps :
    after (withG memStart 1 0x201) [0x0901, 0xFFFF] (fun t => g0 t = 0xABCD) = true := by decide

theorem test_ld_immediate : after memStart [0x0A00, 0x8000] (fun t => t.pc = 0x104 && g0 t = 0x8000) = true := by decide

theorem test_ld_fp_relative : after memStart [0x0B0F] (fun t => t.pc = 0x102 && g0 t = 0xBEEF) = true := by decide

theorem test_ld_register : after memStart [0x0C01] (fun t => g0 t = 0x200) = true := by decide

theorem test_ld_short_immediate_is_signed : after memStart [0x0D08] (fun t => g0 t = 0xFFF8) = true := by decide

theorem test_ld_indirect_uses_old_register : after memStart [0x0E11] (fun t => readReg t (.g 1) = 0xABCD) = true := by decide

theorem test_ld_byte_is_zero_extended :
    after memStart [0x0F01] (fun t => g0 t = 0xAB) = true ∧
      after (withG memStart 1 0x201) [0x0F01] (fun t => g0 t = 0xCD) = true := by decide

theorem test_ld_flag_in_user_mode :
    after (withFlag memStart 0x00) [0x0AF0, 0xFFFF] (fun t => t.flag.toWord = 0x1F) = true := by decide

theorem test_ld_sp_in_each_mode :
    after memStart [0x0AD0, 0x1000] (fun t => t.ssp = 0x1000 && t.usp = 0) = true ∧
      after (withFlag memStart 0x00) [0x0AD0, 0x1000] (fun t => t.ssp = 0 && t.usp = 0x1000) = true := by decide

theorem test_ld_odd_address_faults : faults (withG memStart 1 0x201) [0x0E01] (.addressFault 0x201) = true := by decide

theorem test_st_direct : after (withG memStart 0 0x12AB) [0x1000, 0x0200] (fun t => physWord t 0x200 = 0x12AB) = true := by
  decide

theorem test_st_byte_keeps_the_other_byte :
    after (withG (withG memStart 0 0x12AB) 1 0x201) [0x1701] (fun t => physWord t 0x200 = 0xABAB) = true ∧
      after (withG memStart 0 0x12AB) [0x1701] (fun t => physWord t 0x200 = 0xABCD) = true := by decide

theorem test_st_fp_relative : after (withG memStart 0 1) [0x1301] (fun t => physWord t 0x302 = 1) = true := by decide

theorem test_st_indirect_source_is_address : after memStart [0x1611] (fun t => physWord t 0x200 = 0x200) = true := by decide

theorem test_st_flag :
    after (withFlag memStart 0x41) [0x10F0, 0x0200] (fun t => physWord t 0x200 = 0x41) = true := by decide

/-- One row of 2.3: G0, G1, the result in G0, and V, C, S, Z. -/
def aluRow (op a b r vcsz : Nat) : Bool :=
  after (withOperands (.ofNat 16 a) (.ofNat 16 b)) [.ofNat 16 op]
    (fun t => g0 t = .ofNat 16 r && t.flag.toWord = .ofNat 16 (0x40 + vcsz))

theorem test_add_carry_and_overflow :
    (aluRow 0x1C01 0x7FFF 1 0x8000 0b1010 && aluRow 0x1C01 0xFFFF 1 0 0b0101 && aluRow 0x1C01 0x8000 0x8000 0 0b1101) =
      true := by decide

theorem test_sub_borrow_and_overflow :
    (aluRow 0x2401 0 1 0xFFFF 0b0110 && aluRow 0x2401 0x8000 1 0x7FFF 0b1000 && aluRow 0x2401 0x7FFF 0xFFFF 0x8000 0b1110) =
      true := by decide

theorem test_cmp_writes_no_register :
    (aluRow 0x2C01 0x7FFF 0x8000 0x7FFF 0b1110 && aluRow 0x2C01 5 5 5 0b0001 && aluRow 0x2C01 1 0xFFFF 1 0b0100) = true := by
  decide

/-- One row of 2.4 or 2.5: V and C are not looked at. -/
def logicRow (op a b r s : Nat) : Bool :=
  after (withOperands (.ofNat 16 a) (.ofNat 16 b)) [.ofNat 16 op] (fun t => g0 t = .ofNat 16 r && sz t = s)

theorem test_and : (logicRow 0x3401 0xF0F0 0x0F0F 0 1 && logicRow 0x350F 0x8001 0 0x8001 2) = true := by decide

theorem test_or : (logicRow 0x3C01 0x00F0 0x0F00 0x0FF0 0 && logicRow 0x3C00 0 0 0 1) = true := by decide

theorem test_xor : (logicRow 0x4400 0x5A5A 0 0 1 && logicRow 0x450F 0x00FF 0 0xFF00 2) = true := by decide

theorem test_adds : (logicRow 0x4C01 0x1000 3 0x1006 0 && logicRow 0x4D0F 0x10 0 0xE 0) = true := by decide

theorem test_mul : (logicRow 0x5401 0xFFFF 0xFFFF 1 0 && logicRow 0x5401 0x12C 0x12C 0x5F90 0) = true := by decide

theorem test_div : (logicRow 0x5C01 0x64 7 0xE 0 && logicRow 0x5C01 0x7FFF 2 0x3FFF 0) = true := by decide

theorem test_mod : (logicRow 0x6401 0x64 7 2 0 && logicRow 0x6401 3 5 3 0) = true := by decide

theorem test_div_and_mod_by_zero :
    faults (withOperands 5 0) [0x5C01] (.zeroDivide 0x100) = true ∧
      faults (withOperands 5 0) [0x6401] (.zeroDivide 0x100) = true := by decide

theorem test_shla : (logicRow 0x8501 0x4000 0 0x8000 2 && logicRow 0x8501 0x8000 0 0 1) = true := by decide

theorem test_shll : (logicRow 0x8C01 1 15 0x8000 2 && logicRow 0x8D04 0xAB 0 0x0AB0 0) = true := by decide

theorem test_shra : (logicRow 0x9401 0x8000 15 0xFFFF 2 && logicRow 0x9504 0x1234 0 0x0123 0) = true := by decide

theorem test_shrl : (logicRow 0x9C01 0x8004 2 0x2001 0 && logicRow 0x9D07 0xFFFF 0 0x01FF 0) = true := by decide

theorem test_one_bit_shifts_set_c :
    after (withOperands 0x8000 0) [0x8501] (fun t => t.flag.c) = true ∧
      after (withOperands 0x8004 0) [0x9501] (fun t => !t.flag.c) = true ∧
      after (withOperands 0x8001 0) [0x9D01] (fun t => t.flag.c) = true := by decide

theorem test_long_shift_completes : after (withOperands 1 16) [0x8C01] (fun t => t.pc = 0x102) = true := by decide

theorem test_flag_destination : refuses base [0x1DF1] .flagDestination = true := by decide

/-- Which of the fourteen conditional jumps are taken, in the order of their codes. -/
def taken (f : Nat) : List Bool :=
  [0xA000, 0xA010, 0xA020, 0xA030, 0xA040, 0xA050, 0xA060, 0xA070, 0xA080, 0xA090, 0xA0A0, 0xA0B0, 0xA0C0, 0xA0E0].map
    fun op => after (withFlag base (.ofNat 16 f)) [.ofNat 16 op, 0x0200] (fun t => t.pc = 0x200)

/-- 2.3, the row 5 and 3 (no condition code): JGT JGE JNZ JNC JNM JNO JHI. -/
theorem test_jumps_after_greater :
    taken 0x40 = [false, false, false, false, true, true, false, false, true, true, true, true, true, false] := by decide

/-- 2.3, the row 7FFFh and 8000h (V, C, S): JC JM JO JGT JGE JNZ JLS. -/
theorem test_jumps_after_overflow :
    taken 0x4E = [false, true, true, true, true, true, false, false, true, false, false, false, false, true] := by decide

/-- 2.3, the row 5 and 5 (Z): JZ JGE JLE JNC JNM JNO JLS. -/
theorem test_jumps_after_equal :
    taken 0x41 = [true, false, false, false, false, true, true, false, false, true, true, true, false, true] := by decide

theorem test_jmp :
    after base [0xA0F0, 0x0010] (fun t => t.pc = 0x10) = true ∧
      after (withG base 1 6) [0xA1F1, 0x0200] (fun t => t.pc = 0x206) = true := by decide

theorem test_call_in_user_mode :
    after (withFlag { base with usp := 0x2000, ssp := 0x3000 } 0x00) [0xA800, 0x0300]
      (fun t => t.ssp = 0x3000 && t.usp = 0x1FFE && physWord t 0x1FFE = 0x104 && t.pc = 0x300) = true := by decide

theorem test_call_target_uses_old_sp :
    after { base with ssp := 0x1000 } [0xA90D, 0x0004]
      (fun t => t.ssp = 0x0FFE && physWord t 0x0FFE = 0x104 && t.pc = 0x1004) = true := by decide

theorem test_in_mode_register : after base [0xB000, 0x001E] (fun t => g0 t = 1 && t.pc = 0x104) = true := by decide

theorem test_in_user_mode_with_i : after (withFlag base 0x20) [0xB000, 0x001E] (fun t => g0 t = 1) = true := by decide

theorem test_out_of_a_byte_row :
    after (withG base 0 0x141) [0xB800, 0x0008] (fun t => decide (t.outputs = [⟨0x08, 0x41⟩])) = true := by decide

/-- The IPL ROM attached, G0 = 0001h. -/
def attached : State := withG { base with iplAttached := true } 0 1

theorem test_out_detaches_ipl :
    (match exec (.outDrct (.g 0) 0x00A0) attached with
      | .next t => !t.iplAttached
      | .fault _ | .refused _ => false) = true := by decide

theorem test_push :
    after (withG { base with ssp := 0x0FFE } 1 0x1234) [0xC010]
        (fun t => t.ssp = 0x0FFC && physWord t 0x0FFC = 0x1234) = true ∧
      refuses base [0xC0D0] .stackPointerOperand = true := by decide

theorem test_pop :
    after (withBytes { base with ssp := 0x0FFC } 0x0FFC [0x12, 0x34]) [0xC420]
        (fun t => readReg t (.g 2) = 0x1234 && t.ssp = 0x0FFE) = true ∧
      after (withFlag (withBytes { base with usp := 0x1FFE } 0x1FFE [0x00, 0xFF]) 0x00) [0xC4F0]
        (fun t => t.flag.toWord = 0x1F && t.usp = 0x2000) = true := by decide

theorem test_ret :
    after (withBytes { base with ssp := 0x0FFE } 0x0FFE [0x00, 0x0A]) [0xD000] (fun t => t.pc = 0x0A && t.ssp = 0x1000) =
      true := by decide

theorem test_reti :
    after (withBytes { base with ssp := 0x2FFC } 0x2FFC [0x00, 0xC3, 0x02, 0x00]) [0xD4F0]
        (fun t => t.flag.toWord = 0xC3 && t.pc = 0x200 && t.ssp = 0x3000) = true ∧
      after (withFlag (withBytes { base with usp := 0x1FFC } 0x1FFC [0x00, 0xFF, 0x03, 0x00]) 0x00) [0xD4F0]
        (fun t => t.flag.toWord = 0x1F && t.pc = 0x300 && t.usp = 0x2000) = true := by decide

theorem test_svc :
    after (withFlag (withBytes { base with pc := 0x200, ssp := 0x1000 } 0xFFFE [0x04, 0x00]) 0xC5) [0xF000]
      (fun t => t.ssp = 0x0FFC && physWord t 0x0FFC = 0xC5 && physWord t 0x0FFE = 0x202 && t.flag.toWord = 0x45 &&
        t.pc = 0x400) = true := by decide

theorem test_halt : after { base with pc := 0x0E } [0xFF00] (fun t => t.pc = 0x10 && t.halted) = true := by decide

/-- HALT in user mode: everything but the handler's address, whose vector is open (log 27). -/
theorem test_halt_in_user_mode :
    after (withFlag { base with ssp := 0x3000 } 0x01) [0xFF00]
      (fun t => t.ssp = 0x2FFC && physWord t 0x2FFC = 1 && physWord t 0x2FFE = 0x100 && t.flag.toWord = 0x41 && !t.halted) =
      true := by decide

/-- 2.9: FLAG = 0082h, Timer0 pending and picked, Mem[FFE0h..FFE1h] = 06 00, NO at 0120h. -/
def timerStart : State :=
  withFlag
    (withBytes (withBytes { base with pc := 0x120, ssp := 0x3000, interrupts := [⟨[.timer0], some .timer0⟩] } 0xFFE0
      [0x06, 0x00]) 0x120 [0x00, 0x00]) 0x82

theorem test_timer_interrupt :
    (match step timerStart with
      | .next t => t.ssp = 0x2FFC && physWord t 0x2FFC = 0x82 && physWord t 0x2FFE = 0x120 && t.flag.toWord = 0x42 && t.pc = 0x600
      | .fault _ | .refused _ => false) = true := by decide

theorem test_no_interrupt_without_e :
    (match step (withFlag timerStart 0x02) with
      | .next t => t.pc = 0x122
      | .fault _ | .refused _ => false) = true := by decide

/-- `withFetchWord` at reset: the very next step runs the instruction. -/
theorem test_withFetchWord_runs_the_instruction :
    (match step (State.reset.withFetchWord 32 0x12340A20) with
      | .next t => readReg t (.g 2) = 0x1234 && t.pc = 0xE004
      | .fault _ | .refused _ => false) = true := by decide

/-! ### Witnesses: for each obligation with hypotheses, a state and operands that meet them -/

theorem witness_DecodeAfterEncodeGivesInstruction :
    (Instr.ldFpRlt (.g 0) (-16)).wellFormed = true ∧ (Instr.ldFpRlt (.g 0) 14).wellFormed = true ∧
      (Instr.ldImm4 (.g 0) (-8)).wellFormed = true ∧ (Instr.ldImm4 (.g 0) 7).wellFormed = true := by decide

theorem witness_EncodeAfterDecodeGivesWords :
    decodeWords 0x0A20#16 0x1234#16 = .ok (.ldImm (.g 2) 0x1234) ∧
      decodeWords 0x0B0F#16 0x1234#16 = .ok (.ldFpRlt (.g 0) (-2)) := by decide

/-- D4 = -8 and +7, in LD and in ST. -/
theorem witness_ShortDisplacementIsTwiceD4 :
    decodeWords 0x0B08#16 0 = .ok (mkTwo .ld (.g 0) (.mem (.fpRlt (-16)))) ∧
      decodeWords 0x1307#16 0 = .ok (mkSt (.g 0) (.fpRlt 14)) := by decide

/-- I4 = -8 and +7; a 16-bit immediate; a displacement in each mode that has one. -/
theorem witness_ImmediatesAreTheirFields :
    decodeWords 0x0D08#16 0 = .ok (mkTwo .ld (.g 0) (.imm4 (-8))) ∧
      decodeWords 0x0D07#16 0 = .ok (mkTwo .ld (.g 0) (.imm4 7)) ∧
      decodeWords 0x0A20#16 0x1234 = .ok (mkTwo .ld (.g 2) (.imm 0x1234)) ∧
      decodeWords 0x1000#16 0xFFFF = .ok (mkSt (.g 0) (.drct 0xFFFF)) ∧
      decodeWords 0xA1F1#16 0x0200 = .ok (mkJump .jmp (.index 0x0200 (.g 1))) := by decide

/-- Both ways in which no interrupt is delivered: E = 0, and E = 1 with nothing picked or the picked source not pending. -/
theorem witness_StepRunsDecodedInstruction :
    let s := place memStart [0x0800, 0x0200]
    let idle := withFlag s 0x80
    s.halted = false ∧ s.mmuEnable = false ∧ isOdd s.pc = false ∧ s.flag.e = false ∧
      decode [physByte s s.pc, physByte s (s.pc + 1#16), physByte s (s.pc + 2#16), physByte s (s.pc + 3#16)] =
        .ok (.ldDrct (.g 0) 0x0200, []) ∧
      idle.flag.e = true ∧ idle.interrupts.head? = none ∧
      (Boundary.mk [] (some .timer0)).pick = some .timer0 ∧ IntSource.timer0 ∉ (Boundary.mk [] (some .timer0)).pending := by
  decide

theorem canPush_of {s : State} (h1 : s.mmuEnable = false) (h2 : isOdd (stackPointer s - 2#16) = false)
    (h3 : s.iplAttached = false) : CanPush s := ⟨h1, h2, by simp [inIplRom, h3], by simp [inIplRom, h3]⟩

theorem canTrap_timerStart : CanTrap timerStart := ⟨⟨rfl, by decide, by decide⟩, ⟨rfl, by decide, by decide⟩⟩

theorem witness_StepTakesPickedInterrupt :
    timerStart.halted = false ∧ timerStart.flag.e = true ∧
      timerStart.interrupts = ⟨[.timer0], some .timer0⟩ :: [] ∧ IntSource.timer0 ∈ [IntSource.timer0] ∧
      CanTrap timerStart := ⟨by decide, by decide, by decide, by decide, canTrap_timerStart⟩

/-- One state for each way a step stops by itself. -/
theorem witness_StepStopsOnBadFetch :
    ({ base with halted := true } : State).halted = true ∧
      ({ base with mmuEnable := true } : State).halted = false ∧ ({ base with mmuEnable := true } : State).mmuEnable = true ∧
      base.halted = false ∧ base.mmuEnable = false ∧ base.flag.e = false ∧
      (withFlag base 0xC0).flag.e = true ∧ (withFlag base 0xC0).interrupts.head? = none ∧
      isOdd ({ base with pc := 0x101 } : State).pc = true ∧ isOdd base.pc = false ∧
      UndefinedFirstWord (physWord (place base [0x1200]) 0x100) ∧
      ¬ UndefinedFirstWord (physWord (place base [0x0805]) 0x100) ∧
      ¬ FixedFieldsHold (physWord (place base [0x0805]) 0x100) := by
  have h1 : physWord (place base [0x1200]) 0x100 = 0x1200#16 := by decide
  have h2 : physWord (place base [0x0805]) 0x100 = 0x0805#16 := by decide
  rw [h1, h2]
  refine ⟨by decide, by decide, by decide, by decide, by decide, by decide, by decide, by decide, by decide, by decide, ?_, ?_,
    ?_⟩ <;>
    simp [UndefinedFirstWord, FixedFieldsHold]

theorem witness_RegisterCodesReadTheirRegisters :
    (11#4).toNat < 12 ∧ Mode.reg (.g 1) ∈ [Mode.mem (.index 0 (.g 1)), .reg (.g 1), .mem (.indr (.g 1)), .mem (.bIndr (.g 1))] ∧
      decodeWords 0x1C01#16 0 = .ok (mkTwo .add (.g 0) (.reg (.g 1))) := by decide

theorem witness_RegisterReadsBackWhatWasWritten : Reg.g 0 ≠ .flag ∧ Reg.sp ≠ .flag ∧ Reg.usp ≠ .flag := by decide

theorem witness_CodeEhIsUspInBothModes : (withFlag base 0x00).flag.p = false := by decide

theorem witness_FlagReadsAsZeroExtendedByte : Reg.g 11 ≠ .flag := by decide

/-- In `memStart` an operand of every mode can be read. -/
theorem readable_memStart :
    OperandReadable memStart (.mem (.drct 0x200)) ∧ OperandReadable memStart (.mem (.index 2 (.g 1))) ∧
      OperandReadable memStart (.imm 0) ∧ OperandReadable memStart (.mem (.fpRlt (-2))) ∧
      OperandReadable memStart (.reg (.g 1)) ∧ OperandReadable memStart (.imm4 (-8)) ∧
      OperandReadable memStart (.mem (.indr (.g 1))) ∧ OperandReadable memStart (.mem (.bIndr (.g 1))) :=
  ⟨⟨rfl, by decide⟩, ⟨rfl, by decide⟩, trivial, ⟨rfl, by decide⟩, trivial, trivial, ⟨rfl, by decide⟩, rfl⟩

theorem witness_LoadPutsOperandInRegister : Reg.g 0 ≠ .flag ∧ OperandReadable memStart (.mem (.drct 0x200)) :=
  ⟨by decide, readable_memStart.1⟩

theorem witness_LoadIntoFlagIsMaskedInUserMode : OperandReadable (withFlag memStart 0x00) (.imm 0xFFFF) := trivial

theorem writable_memStart :
    WordWritable memStart (effAddr memStart (.drct 0x200)) ∧ WordWritable memStart (effAddr memStart (.drct 0xFFFE)) :=
  ⟨⟨rfl, by decide, by decide⟩, ⟨rfl, by decide, by decide⟩⟩

theorem witness_StoreWritesWordBigEndian :
    (∀ rx, MemMode.drct 0x200 ≠ .bIndr rx) ∧ WordWritable memStart (effAddr memStart (.drct 0x200)) :=
  ⟨by simp, writable_memStart.1⟩

theorem witness_StoreByteWritesLowByte : ByteWritable (withG memStart 1 0x201) (readReg (withG memStart 1 0x201) (.g 1)) :=
  ⟨rfl, by decide⟩

/-- The ROM at both ends of what R78 gives it, E000h and FFDFh, while attached; any address when detached. -/
theorem witness_AttachedIplRomHidesRam :
    State.reset.mmuEnable = false ∧ State.reset.iplAttached = true ∧ InIplRegion 0xE000#16 ∧ InIplRegion 0xFFDF#16 ∧
      base.mmuEnable = false ∧ base.iplAttached = false := by
  have h := Config.iplBase.isLt
  refine ⟨by decide, by decide, ⟨?_, ?_⟩, ⟨?_, ?_⟩, by decide, by decide⟩ <;> simp <;> omega

theorem witness_AddSetsSumAndFlags : Reg.g 0 ≠ .flag ∧ OperandReadable memStart (.mem (.indr (.g 1))) :=
  ⟨by decide, readable_memStart.2.2.2.2.2.2.1⟩

theorem witness_SubtractSetsDifferenceAndFlags : Reg.sp ≠ .flag ∧ OperandReadable memStart (.mem (.fpRlt (-2))) :=
  ⟨by decide, readable_memStart.2.2.2.1⟩

theorem witness_CompareSetsFlagsOnly : OperandReadable memStart (.mem (.index 2 (.g 1))) := readable_memStart.2.1

/-- Each of the three instructions. -/
theorem witness_LogicWorksBitByBit :
    (TwoOp.and = .and ∧ and = and) ∧ (TwoOp.or = .or ∧ or = or) ∧ (TwoOp.xor = .xor ∧ xor = xor) ∧ Reg.g 0 ≠ .flag ∧
      OperandReadable memStart (.mem (.bIndr (.g 1))) :=
  ⟨⟨rfl, rfl⟩, ⟨rfl, rfl⟩, ⟨rfl, rfl⟩, by decide, readable_memStart.2.2.2.2.2.2.2⟩

theorem witness_AddScaledDoublesOperand : Reg.fp ≠ .flag ∧ OperandReadable memStart (.imm4 (-8)) := ⟨by decide, trivial⟩

theorem witness_MultiplyKeepsLowHalf : Reg.g 0 ≠ .flag ∧ OperandReadable memStart (.imm 0) := ⟨by decide, trivial⟩

/-- Operands at 7FFFh, where the two readings of division agree, and at 8000h, where they need not. -/
theorem witness_DivideAndModuloAgree :
    Reg.g 0 ≠ .flag ∧ OperandReadable (withOperands 0x7FFF 0x7FFF) (.reg (.g 1)) ∧
      operandValue (withOperands 0x7FFF 0x7FFF) (.reg (.g 1)) ≠ 0#16 ∧
      OperandReadable (withOperands 0x8000 0x7FFF) (.reg (.g 1)) ∧
      operandValue (withOperands 0x8000 0x7FFF) (.reg (.g 1)) ≠ 0#16 :=
  ⟨by decide, trivial, by decide, trivial, by decide⟩

theorem witness_DivisionByZeroFaults :
    Reg.g 0 ≠ .flag ∧ OperandReadable (withOperands 5 0) (.reg (.g 1)) ∧
      operandValue (withOperands 5 0) (.reg (.g 1)) = 0#16 := ⟨by decide, trivial, by decide⟩

/-- Counts 0, 1 and 15. -/
theorem witness_ShiftMovesBitsAndCarry :
    Reg.g 0 ≠ .flag ∧ OperandReadable (withOperands 5 15) (.reg (.g 1)) ∧
      TwoOp.shra ∈ [TwoOp.shla, .shll, .shra, .shrl] ∧ (operandValue (withOperands 5 15) (.reg (.g 1))).toNat < 16 ∧
      (operandValue base (.imm4 0)).toNat < 16 ∧ (operandValue base (.imm4 1)).toNat = 1 :=
  ⟨by decide, trivial, by decide, by decide, by decide, by decide⟩

/-- Counts 16 and FFFFh. -/
theorem witness_LongShiftChangesOnlyResultAndConditionCodes :
    Reg.g 0 ≠ .flag ∧ OperandReadable (withOperands 5 16) (.reg (.g 1)) ∧
      TwoOp.shla ∈ [TwoOp.shla, .shll, .shra, .shrl] ∧ 16 ≤ (operandValue (withOperands 5 16) (.reg (.g 1))).toNat ∧
      16 ≤ (operandValue base (.imm4 (-1))).toNat :=
  ⟨by decide, trivial, by decide, by decide, by decide⟩

/-- SP in either mode, USP in user mode; ADD and LD's neighbours among the operations. -/
theorem witness_AmbiguousDestinationsAreRefused :
    TwoOp.add ≠ .ld ∧ TwoOp.add ≠ .cmp ∧ (withFlag base 0x00).flag.p = false := by decide

theorem witness_OddWordOperandFaults :
    (∀ rx, MemMode.drct 0x201 ≠ .bIndr rx) ∧ isOdd (effAddr memStart (.drct 0x201)) = true ∧ Reg.g 0 ≠ .flag :=
  ⟨by simp, by decide, by decide⟩

/-- An odd stack pointer in privileged and in user mode, an odd SSP in user mode, and an interrupt about to be taken. -/
theorem witness_OddStackPointerFaults :
    isOdd (stackPointer { base with ssp := 0x1001 }) = true ∧
      isOdd (stackPointer (withFlag { base with usp := 0x2001 } 0x00)) = true ∧ namesStackPointer base (.g 0) = false ∧
      (let s := withFlag { base with ssp := 0x1001 } 0x00
       isOdd s.ssp = true ∧ s.flag.p = false ∧ s.flag.i = false) ∧
      (let s := { timerStart with ssp := 0x1001 }
       isOdd s.ssp = true ∧ s.halted = false ∧ s.mmuEnable = false ∧ s.flag.e = true ∧
         s.interrupts.head? = some ⟨[.timer0], some .timer0⟩ ∧ IntSource.timer0 ∈ [IntSource.timer0]) := by decide

/-- JGT both ways. -/
theorem witness_JumpGoesWhereConditionSays :
    JumpCondition (withFlag base 0x4A).flag .jgt ∧ ¬ JumpCondition (withFlag base 0x41).flag .jgt := by
  constructor <;> simp [JumpCondition, withFlag, Flag.ofWord]

/-- 7FFFh against 8000h: greater signed, lower unsigned. -/
theorem witness_CompareThenJumpDecidesRelation :
    OperandReadable (withOperands 0x7FFF 0x8000) (.reg (.g 1)) ∧
      (readReg (withOperands 0x7FFF 0x8000) (.g 0)).toInt > (operandValue (withOperands 0x7FFF 0x8000) (.reg (.g 1))).toInt ∧
      (readReg (withOperands 0x7FFF 0x8000) (.g 0)).toNat < (operandValue (withOperands 0x7FFF 0x8000) (.reg (.g 1))).toNat :=
  ⟨trivial, by decide, by decide⟩

/-- Room on the stack at 1000h and, wrapping, at 0000h. -/
theorem witness_CallPushesReturnAddress : CanPush { base with ssp := 0x1000 } ∧ CanPush { base with ssp := 0 } :=
  ⟨canPush_of rfl (by decide) (by decide), canPush_of rfl (by decide) (by decide)⟩

theorem witness_ReturnUndoesCall : CanPush (withFlag { base with usp := 0x2000 } 0x00) :=
  canPush_of rfl (by decide) (by decide)

theorem witness_ReturnPopsPc : WordReadable { base with ssp := 0xFFFE } (stackPointer { base with ssp := 0xFFFE }) :=
  ⟨rfl, by decide⟩

theorem witness_PushStoresBelowStackPointer :
    namesStackPointer { base with ssp := 0x1000 } .usp = false ∧ CanPush { base with ssp := 0x1000 } :=
  ⟨by decide, witness_CallPushesReturnAddress.1⟩

theorem witness_PopLoadsAndMovesStackPointer :
    namesStackPointer base .flag = false ∧ namesStackPointer base (.g 0) = false ∧ WordReadable base (stackPointer base) :=
  ⟨by decide, by decide, rfl, by decide⟩

theorem witness_PopUndoesPush :
    namesStackPointer { base with ssp := 0x1000 } .flag = false ∧ namesStackPointer { base with ssp := 0x1000 } .fp = false ∧
      Reg.fp ≠ .flag ∧ CanPush { base with ssp := 0x1000 } :=
  ⟨by decide, by decide, by decide, witness_CallPushesReturnAddress.1⟩

theorem witness_ReturnFromInterruptPopsFlagAndPc :
    WordReadable { base with ssp := 0x2FFC } (stackPointer { base with ssp := 0x2FFC }) := ⟨rfl, by decide⟩

theorem witness_SupervisorCallTakesTrap : CanTrap { base with ssp := 0x3000 } ∧ CanTrap (withFlag { base with ssp := 0x3000 } 0x00) :=
  ⟨⟨⟨rfl, by decide, by decide⟩, ⟨rfl, by decide, by decide⟩⟩, ⟨⟨rfl, by decide, by decide⟩, ⟨rfl, by decide, by decide⟩⟩⟩

theorem witness_ReturnUndoesSupervisorCall : CanTrap { base with ssp := 0x3000 } := witness_SupervisorCallTakesTrap.1

/-- HALT, IN and OUT with P = 0 and I = 0. -/
theorem witness_PrivilegeViolationTakesTrap :
    let s := withFlag { base with ssp := 0x3000 } 0x00
    s.flag.p = false ∧ CanTrap s ∧ s.flag.i = false ∧ (∃ rd m, Instr.inDrct (.g 0) 0x1E = mkIn rd m) ∧
      ∃ rd m, Instr.outIndr (.g 0) (.g 1) = mkOut rd m :=
  ⟨by decide, witness_SupervisorCallTakesTrap.2, by decide, ⟨.g 0, .drct 0x1E, rfl⟩, ⟨.g 0, .indr (.g 1), rfl⟩⟩

theorem witness_HaltStopsPrivilegedCpu : base.flag.p = true := by decide

/-- The rows the clauses name, first and last of each range among them, are I/O addresses; P = 1, or P = 0 with I = 1. -/
theorem witness_InputPutsAnswerInRegister :
    base.flag.p = true ∧ (withFlag base 0x20).flag.i = true ∧
      ([0x08, 0x10, 0x18, 0x36, 0xFC, 0x1E, 0x0A, 0x0E, 0x2A, 0xFE, 0x32, 0x34, 0x2E, 0x2C, 0xA2, 0xA4, 0xA6, 0x00].all
        fun n => decide ((portAddr base (.drct (.ofNat 16 n))).toNat = n) && decide (n < 256) && decide (n % 2 = 0)) = true ∧
      State.reset.dev.rn4020CmdWritten = false := by decide

/-- Row FEh with any value, and the rows of the device registers from the first to the last; rows 10h, A0h and A2h with the
values they accept. -/
theorem witness_OutputReachesDevice :
    base.flag.p = true ∧ (portAddr base (.drct 0xFE)).toNat < 256 ∧ (portAddr base (.drct 0xFE)).toNat % 2 = 0 ∧
      ([0x00, 0x08, 0x10, 0x16, 0x2C, 0x2E, 0x36, 0xF8].all fun n => decide ((portAddr base (.drct (.ofNat 16 n))).toNat = n)) = true ∧
      (readReg (withG base 0 0x80) (.g 0)).toNat % 8 = 0 ∧ (readReg (withG base 0 1) (.g 0)).getLsbD 0 = true ∧
      (readReg (withG base 0 2) (.g 0)).getLsbD 0 = false := by decide

/-- Addresses 0100h and 0009h; rows 10h, A0h and A2h with the values they refuse. -/
theorem witness_UndescribedIoIsRefused :
    base.flag.p = true ∧ 256 ≤ (portAddr base (.drct 0x100)).toNat ∧ (portAddr base (.drct 0x09)).toNat % 2 = 1 ∧
      (portAddr base (.drct 0x10)).toNat = 0x10 ∧ (readReg (withG base 0 4) (.g 0)).toNat % 8 ≠ 0 ∧
      (portAddr base (.drct 0xA0)).toNat = 0xA0 ∧ (readReg (withG base 0 2) (.g 0)).getLsbD 0 = false ∧
      (portAddr base (.drct 0xA2)).toNat = 0xA2 ∧ (readReg (withG base 0 1) (.g 0)).getLsbD 0 = true := by decide

theorem witness_TlbEntryReadsBack : base.flag.p = true ∧ Reg.g 0 ≠ .flag := by decide

theorem witness_Rn4020RamReadsBackAcrossReset : (withFlag base 0x20).flag.i = true ∧ Reg.g 0 ≠ .flag := by decide

/-- A step that completes from a state that meets the invariant. -/
theorem witness_EveryStepKeepsWellFormedState :
    (place memStart [0x0000]).wf = true ∧ ∃ t, step (place memStart [0x0000]) = .next t :=
  ⟨by decide, _, rfl⟩

/-- SVC from user mode enters privileged mode. -/
theorem witness_UserModeIsLeftOnlyByTrap :
    (place (withFlag { base with ssp := 0x3000 } 0x00) [0xF000]).flag.p = false ∧
      after (withFlag { base with ssp := 0x3000 } 0x00) [0xF000] (fun t => t.flag.p) = true := by decide

/-- NO in user mode with I = 0 stays in user mode. -/
theorem witness_UserModeKeepsPrivilegedState :
    (place (withFlag base 0x00) [0x0000]).flag.p = false ∧ (place (withFlag base 0x00) [0x0000]).flag.i = false ∧
      after (withFlag base 0x00) [0x0000] (fun t => !t.flag.p) = true := by decide

/-- A step with the ROM detached, and an instruction that detaches it. -/
theorem witness_IplIsDetachedForGood :
    after base [0x0000] (fun t => !t.iplAttached) = true ∧ attached.iplAttached = true ∧
      ∃ t, exec (.outDrct (.g 0) 0x00A0) attached = .next t ∧ t.iplAttached = false :=
  ⟨by decide, by decide, _, rfl, rfl⟩

theorem witness_OnlyPrivilegedHaltStopsCpu :
    exec .halt base = .next { base with pc := base.pc + 2#16, halted := true } ∧ base.halted = false :=
  ⟨rfl, by decide⟩

end Sys2Proof.Tests
end

section
/-! SUPPORT. The decoder row by row: which family of rows OP[7:3] selects (30_encoding.md R121), when a family rejects a
first word (R123, R125), and that what it accepts is encoded by the words it was read from. -/

namespace Sys2Proof

/-! ### The fields of the first word as numbers -/

theorem opHi_toNat (op : BitVec 8) : (opHi op).toNat = op.toNat / 8 := by
  have := op.isLt
  simp only [opHi, BitVec.extractLsb'_toNat, Nat.shiftRight_eq_div_pow]
  omega

theorem opMode_toNat (op : BitVec 8) : (opMode op).toNat = op.toNat % 8 := by
  simp [opMode, BitVec.extractLsb'_toNat]

/-! ### The words of an instruction, by mode -/

/-- OP[7:3] of a two-operand instruction (30_encoding.md R121). -/
def TwoOp.number : TwoOp → Nat
  | .ld => 0x01
  | .add => 0x03
  | .sub => 0x04
  | .cmp => 0x05
  | .and => 0x06
  | .or => 0x07
  | .xor => 0x08
  | .adds => 0x09
  | .mul => 0x0A
  | .div => 0x0B
  | .mod => 0x0C
  | .shla => 0x10
  | .shll => 0x11
  | .shra => 0x12
  | .shrl => 0x13

/-- OP[2:0] of a mode (30_encoding.md R104). -/
def Mode.number : Mode → Nat
  | .mem (.drct _) => 0
  | .mem (.index _ _) => 1
  | .imm _ => 2
  | .mem (.fpRlt _) => 3
  | .reg _ => 4
  | .imm4 _ => 5
  | .mem (.indr _) => 6
  | .mem (.bIndr _) => 7

/-- Bits 3:0 of the first word of an instruction in a mode: Rx, Rs, D4, I4 or 0h (30_encoding.md R104, R122). -/
def Mode.field : Mode → BitVec 4
  | .mem (.drct _) | .imm _ => 0#4
  | .mem (.fpRlt d) => fieldOfDsp4 d
  | .imm4 v => fieldOfImm4 v
  | .mem (.index _ r) | .reg r | .mem (.indr r) | .mem (.bIndr r) => r.code

/-- The words after the first: Dsp or Imm in the modes that have one (30_encoding.md R116). -/
def Mode.second : Mode → List Word
  | .mem (.drct w) | .mem (.index w _) | .imm w => [w]
  | .mem (.fpRlt _) | .imm4 _ | .reg _ | .mem (.indr _) | .mem (.bIndr _) => []

/-- The words of a row with addressing modes: OP is OP[7:3] = `n` and the number of the mode. -/
def modeWords (n : Nat) (rd : BitVec 4) (m : Mode) : List Word :=
  packFirst (BitVec.ofNat 8 (n * 8 + m.number)) rd m.field :: m.second

theorem encode_mkTwo (op : TwoOp) (rd : Reg) (m : Mode) : encode (mkTwo op rd m) = modeWords op.number rd.code m := by
  cases op <;> rcases m with (_ | _ | _ | _ | _) | _ | _ | _ <;> rfl

theorem encode_mkSt (rd : Reg) (m : MemMode) : encode (mkSt rd m) = modeWords 0x02 rd.code (.mem m) := by
  cases m <;> rfl

theorem encode_mkJump (c : Cond) (t : Target) :
    encode (mkJump c t) = modeWords 0x14 c.code (.mem (Machine.targetMode t)) := by
  cases c <;> cases t <;> rfl

theorem encode_mkCall (t : Target) : encode (mkCall t) = modeWords 0x15 0#4 (.mem (Machine.targetMode t)) := by
  cases t <;> rfl

theorem encode_mkIn (rd : Reg) (m : PortMode) :
    encode (mkIn rd m) = modeWords 0x16 rd.code (.mem (Machine.portMemMode m)) := by
  cases m <;> rfl

theorem encode_mkOut (rd : Reg) (m : PortMode) :
    encode (mkOut rd m) = modeWords 0x17 rd.code (.mem (Machine.portMemMode m)) := by
  cases m <;> rfl

/-! ### What each part of the decoder accepts -/

/-- `md` is the mode that OP[2:0] = `m`, bits 3:0 = `rx` and a second word `w2` stand for. -/
def Mode.ReadFrom (md : Mode) (m : BitVec 3) (rx : BitVec 4) (w2 : Word) : Prop :=
  md.number = m.toNat ∧ md.field = rx ∧ md.second = if m.toNat ≤ 2 then [w2] else []

/-- All the decoder of the eight modes can accept. -/
theorem decodeMode_ok {m : BitVec 3} {rx : BitVec 4} {w2 : Word} {mk : Mode → Instr} {i : Instr}
    (h : decodeMode m rx w2 mk = .ok i) : ∃ md : Mode, i = mk md ∧ md.ReadFrom m rx w2 := by
  unfold decodeMode at h
  split at h
  case h_1 hm => obtain ⟨rfl, rfl⟩ := fixed_ok h; exact ⟨_, rfl, hm.symm, rfl, by simp [hm, Mode.second]⟩
  case h_2 hm => cases h; exact ⟨_, rfl, hm.symm, Reg.code_ofCode rx, by simp [hm, Mode.second]⟩
  case h_3 hm => obtain ⟨rfl, rfl⟩ := fixed_ok h; exact ⟨_, rfl, hm.symm, rfl, by simp [hm, Mode.second]⟩
  case h_4 hm => cases h; exact ⟨_, rfl, hm.symm, fieldOfDsp4_dsp4OfField rx, by simp [hm, Mode.second]⟩
  case h_5 hm => cases h; exact ⟨_, rfl, hm.symm, Reg.code_ofCode rx, by simp [hm, Mode.second]⟩
  case h_6 hm => cases h; exact ⟨_, rfl, hm.symm, fieldOfImm4_imm4OfField rx, by simp [hm, Mode.second]⟩
  case h_7 hm => cases h; exact ⟨_, rfl, hm.symm, Reg.code_ofCode rx, by simp [hm, Mode.second]⟩
  case h_8 =>
    have hm : m.toNat = 7 := by have := m.isLt; grind
    cases h
    exact ⟨_, rfl, hm.symm, Reg.code_ofCode rx, by simp [hm, Mode.second]⟩

/-- All the decoder of ST's modes can accept. -/
theorem decodeMemMode_ok {m : BitVec 3} {rx : BitVec 4} {w2 : Word} {mk : MemMode → Instr} {i : Instr}
    (h : decodeMemMode m rx w2 mk = .ok i) : ∃ md : MemMode, i = mk md ∧ (Mode.mem md).ReadFrom m rx w2 := by
  unfold decodeMemMode at h
  split at h
  case h_1 hm => obtain ⟨rfl, rfl⟩ := fixed_ok h; exact ⟨_, rfl, hm.symm, rfl, by simp [hm, Mode.second]⟩
  case h_2 hm => cases h; exact ⟨_, rfl, hm.symm, Reg.code_ofCode rx, by simp [hm, Mode.second]⟩
  case h_3 hm => cases h; exact ⟨_, rfl, hm.symm, fieldOfDsp4_dsp4OfField rx, by simp [hm, Mode.second]⟩
  case h_4 hm => cases h; exact ⟨_, rfl, hm.symm, Reg.code_ofCode rx, by simp [hm, Mode.second]⟩
  case h_5 hm => cases h; exact ⟨_, rfl, hm.symm, Reg.code_ofCode rx, by simp [hm, Mode.second]⟩
  case h_6 => cases h

/-- All the decoder of the modes of a jump or CALL can accept. -/
theorem decodeTarget_ok {m : BitVec 3} {rx : BitVec 4} {w2 : Word} {mk : Target → Instr} {i : Instr}
    (h : decodeTarget m rx w2 mk = .ok i) :
    ∃ t : Target, i = mk t ∧ (Mode.mem (Machine.targetMode t)).ReadFrom m rx w2 := by
  unfold decodeTarget at h
  split at h
  case h_1 h0 => obtain ⟨rfl, rfl⟩ := fixed_ok h; exact ⟨_, rfl, h0.symm, rfl, by simp [h0]; rfl⟩
  case h_2 h1 => cases h; exact ⟨_, rfl, h1.symm, Reg.code_ofCode rx, by simp [h1]; rfl⟩
  case h_3 => cases h

/-- All the decoder of the modes of IN and OUT can accept. -/
theorem decodePort_ok {m : BitVec 3} {rx : BitVec 4} {w2 : Word} {mk : PortMode → Instr} {i : Instr}
    (h : decodePort m rx w2 mk = .ok i) :
    ∃ p : PortMode, i = mk p ∧ (Mode.mem (Machine.portMemMode p)).ReadFrom m rx w2 := by
  unfold decodePort at h
  split at h
  case h_1 h0 => obtain ⟨rfl, rfl⟩ := fixed_ok h; exact ⟨_, rfl, h0.symm, rfl, by simp [h0]; rfl⟩
  case h_2 h6 => cases h; exact ⟨_, rfl, h6.symm, Reg.code_ofCode rx, by simp [h6]; rfl⟩
  case h_3 => cases h

theorem decodeJump_ok {m : BitVec 3} {rd rx : BitVec 4} {w2 : Word} {i : Instr} (h : decodeJump m rd rx w2 = .ok i) :
    ∃ c t, i = mkJump c t ∧ c.code = rd ∧ (Mode.mem (Machine.targetMode t)).ReadFrom m rx w2 := by
  unfold decodeJump at h
  split at h
  case h_1 c hc =>
    obtain ⟨t, rfl, ht⟩ := decodeTarget_ok h
    exact ⟨c, t, rfl, Cond.code_of_ofCode hc, ht⟩
  case h_2 => cases h

theorem decodeCall_ok {m : BitVec 3} {rd rx : BitVec 4} {w2 : Word} {i : Instr} (h : decodeCall m rd rx w2 = .ok i) :
    ∃ t, i = mkCall t ∧ rd = 0#4 ∧ (Mode.mem (Machine.targetMode t)).ReadFrom m rx w2 := by
  unfold decodeCall at h
  split at h
  case h_1 j hj =>
    obtain ⟨rfl, rfl⟩ := fixed_ok h
    obtain ⟨t, rfl, ht⟩ := decodeTarget_ok hj
    exact ⟨t, rfl, rfl, ht⟩
  case h_2 => cases h

theorem decodeBare_ok {rd rx v : BitVec 4} {i j : Instr} (h : decodeBare rd rx v i = .ok j) :
    j = i ∧ rd = v ∧ rx = 0#4 := by
  unfold decodeBare at h
  split at h
  case h_1 k hk =>
    obtain ⟨rfl, rfl⟩ := fixed_ok h
    obtain ⟨rfl, rfl⟩ := fixed_ok hk
    exact ⟨rfl, rfl, rfl⟩
  case h_2 => cases h

/-! ### What each part of the decoder rejects -/

theorem fixed_error_iff {f v : BitVec 4} {x : Instr} {e : WordError} :
    fixed f v x = .error e ↔ e = .fixedField ∧ f ≠ v := by
  unfold fixed
  split <;> simp_all [eq_comm (b := e)]

theorem decodeMode_error_iff {m : BitVec 3} {rx : BitVec 4} {w2 : Word} {mk : Mode → Instr} {e : WordError} :
    decodeMode m rx w2 mk = .error e ↔ e = .fixedField ∧ (m.toNat = 0 ∨ m.toNat = 2) ∧ rx ≠ 0#4 := by
  unfold decodeMode
  split <;> simp_all [fixed_error_iff]

theorem decodeMemMode_error_iff {m : BitVec 3} {rx : BitVec 4} {w2 : Word} {mk : MemMode → Instr} {e : WordError} :
    decodeMemMode m rx w2 mk = .error e ↔
      (e = .illegal ∧ m.toNat ∉ [0, 1, 3, 6, 7]) ∨ (e = .fixedField ∧ m.toNat = 0 ∧ rx ≠ 0#4) := by
  unfold decodeMemMode
  split <;> simp_all [fixed_error_iff, eq_comm (b := e)]

theorem decodeTarget_error_iff {m : BitVec 3} {rx : BitVec 4} {w2 : Word} {mk : Target → Instr} {e : WordError} :
    decodeTarget m rx w2 mk = .error e ↔
      (e = .illegal ∧ m.toNat ∉ [0, 1]) ∨ (e = .fixedField ∧ m.toNat = 0 ∧ rx ≠ 0#4) := by
  unfold decodeTarget
  split <;> simp_all [fixed_error_iff, eq_comm (b := e)]

theorem decodePort_error_iff {m : BitVec 3} {rx : BitVec 4} {w2 : Word} {mk : PortMode → Instr} {e : WordError} :
    decodePort m rx w2 mk = .error e ↔
      (e = .illegal ∧ m.toNat ∉ [0, 6]) ∨ (e = .fixedField ∧ m.toNat = 0 ∧ rx ≠ 0#4) := by
  unfold decodePort
  split <;> simp_all [fixed_error_iff, eq_comm (b := e)]

theorem Cond.ofCode_eq_none {c : BitVec 4} : Cond.ofCode c = none ↔ c = 0xD#4 := by
  revert c; decide

theorem decodeJump_error_iff {m : BitVec 3} {rd rx : BitVec 4} {w2 : Word} {e : WordError} :
    decodeJump m rd rx w2 = .error e ↔
      (e = .illegal ∧ (rd = 0xD#4 ∨ m.toNat ∉ [0, 1])) ∨
        (e = .fixedField ∧ rd ≠ 0xD#4 ∧ m.toNat = 0 ∧ rx ≠ 0#4) := by
  simp only [ne_eq, ← Cond.ofCode_eq_none]
  unfold decodeJump
  cases Cond.ofCode rd with
  | none => simp [eq_comm (b := e)]
  | some c => simp [decodeTarget_error_iff]

theorem decodeCall_error_iff {m : BitVec 3} {rd rx : BitVec 4} {w2 : Word} {e : WordError} :
    decodeCall m rd rx w2 = .error e ↔
      (e = .illegal ∧ m.toNat ∉ [0, 1]) ∨
        (e = .fixedField ∧ m.toNat ∈ [0, 1] ∧ (rd ≠ 0#4 ∨ m.toNat = 0 ∧ rx ≠ 0#4)) := by
  have herr := fun d => decodeTarget_error_iff (m := m) (rx := rx) (w2 := w2) (mk := mkCall) (e := d)
  unfold decodeCall
  cases ht : decodeTarget m rx w2 mkCall with
  | ok i =>
    have hmode : m.toNat ∈ [0, 1] := by simpa [ht, imp_iff_not_or] using herr .illegal
    have hrx : m.toNat = 0 → rx = 0#4 := by simpa [ht] using herr .fixedField
    simp only [fixed_error_iff]
    tauto
  | error d =>
    rcases (herr d).mp ht with ⟨rfl, hm⟩ | ⟨rfl, hm, hx⟩
    · simp [eq_comm (b := e), hm]
    · simp [eq_comm (b := e), hm, hx]

theorem decodeBare_error_iff {rd rx v : BitVec 4} {i : Instr} {e : WordError} :
    decodeBare rd rx v i = .error e ↔ e = .fixedField ∧ (rd ≠ v ∨ rx ≠ 0#4) := by
  unfold decodeBare
  cases hf : fixed rd v i with
  | ok j => simp [fixed_error_iff, (fixed_ok hf).1]
  | error d =>
    obtain ⟨rfl, hne⟩ := fixed_error_iff.mp hf
    simp [hne, eq_comm (b := e)]

/-! ### The families of rows -/

/-- The rows without operands: OP[7:3], OP[2:0], the fixed Rd and the instruction (30_encoding.md R121, R122). -/
def bareRows : List (Nat × BitVec 3 × BitVec 4 × Instr) :=
  [(0x00, 0#3, 0#4, .no), (0x1A, 0#3, 0#4, .ret), (0x1A, 4#3, 0xF#4, .reti), (0x1E, 0#3, 0#4, .svc),
    (0x1F, 7#3, 0#4, .halt)]

/-- The undefined first words (a) to (i) of 30_encoding.md R123, by OP[7:3], OP[2:0] and Rd. -/
def UndefinedParts (n m rd : Nat) : Prop :=
  n ∈ [0x0D, 0x0E, 0x0F, 0x19, 0x1B, 0x1C, 0x1D] ∨
    (n = 0x00 ∧ m ≠ 0) ∨
    (n = 0x02 ∧ m ∈ [2, 4, 5]) ∨
    ((n = 0x14 ∨ n = 0x15) ∧ 2 ≤ m) ∨
    ((n = 0x16 ∨ n = 0x17) ∧ m ≠ 0 ∧ m ≠ 6) ∨
    (n = 0x18 ∧ m ≠ 0 ∧ m ≠ 4) ∨
    (n = 0x1A ∧ m ≠ 0 ∧ m ≠ 4) ∨
    (n = 0x1E ∧ m ≠ 0 ∨ n = 0x1F ∧ m ≠ 7) ∨
    (n = 0x14 ∧ m < 2 ∧ rd = 0xD)

/-- `Family m rd rx w2 n x`: where OP[7:3] is `n`, the decoder's answer is `x`, by the family of rows that `n` selects
(30_encoding.md R121). The other fields of the first word are `m`, `rd` and `rx`, the second word is `w2`. -/
inductive Family (m : BitVec 3) (rd rx : BitVec 4) (w2 : Word) : Nat → Except WordError Instr → Prop
  | two (op : TwoOp) : Family m rd rx w2 op.number (decodeMode m rx w2 (mkTwo op (Reg.ofCode rd)))
  | st : Family m rd rx w2 0x02 (decodeMemMode m rx w2 (mkSt (Reg.ofCode rd)))
  | jump : Family m rd rx w2 0x14 (decodeJump m rd rx w2)
  | call : Family m rd rx w2 0x15 (decodeCall m rd rx w2)
  | input : Family m rd rx w2 0x16 (decodePort m rx w2 (mkIn (Reg.ofCode rd)))
  | output : Family m rd rx w2 0x17 (decodePort m rx w2 (mkOut (Reg.ofCode rd)))
  | push (hm : m = 0#3) : Family m rd rx w2 0x18 (fixed rx 0#4 (.push (Reg.ofCode rd)))
  | pop (hm : m = 4#3) : Family m rd rx w2 0x18 (fixed rx 0#4 (.pop (Reg.ofCode rd)))
  | bare (n : Nat) (v : BitVec 4) (i : Instr) (h : (n, m, v, i) ∈ bareRows) : Family m rd rx w2 n (decodeBare rd rx v i)
  | undefined (n : Nat) (h : UndefinedParts n m.toNat rd.toNat) : Family m rd rx w2 n (.error .illegal)

theorem decodeWords_family (w1 w2 : Word) :
    Family (opMode (opField w1)) (rdField w1) (rxField w1) w2 (opHi (opField w1)).toNat (decodeWords w1 w2) := by
  have hlt := (opHi (opField w1)).isLt
  unfold decodeWords
  dsimp only
  generalize (opHi (opField w1)).toNat = n at hlt ⊢
  generalize opMode (opField w1) = m
  split
  case h_1 =>
    split
    · next hm => subst hm; exact .bare _ _ _ (by simp [bareRows])
    · next hm => exact .undefined _ (by simp [UndefinedParts]; bv_omega)
  case h_2 => exact .two .ld
  case h_3 => exact .st
  case h_4 => exact .two .add
  case h_5 => exact .two .sub
  case h_6 => exact .two .cmp
  case h_7 => exact .two .and
  case h_8 => exact .two .or
  case h_9 => exact .two .xor
  case h_10 => exact .two .adds
  case h_11 => exact .two .mul
  case h_12 => exact .two .div
  case h_13 => exact .two .mod
  case h_14 => exact .two .shla
  case h_15 => exact .two .shll
  case h_16 => exact .two .shra
  case h_17 => exact .two .shrl
  case h_18 => exact .jump
  case h_19 => exact .call
  case h_20 => exact .input
  case h_21 => exact .output
  case h_22 =>
    split
    · next hm => exact .push hm
    · split
      · next hm => exact .pop hm
      · next h0 h4 => exact .undefined _ (by simp [UndefinedParts]; bv_omega)
  case h_23 =>
    split
    · next hm => subst hm; exact .bare _ _ _ (by simp [bareRows])
    · split
      · next hm => subst hm; exact .bare _ _ _ (by simp [bareRows])
      · next h0 h4 => exact .undefined _ (by simp [UndefinedParts]; bv_omega)
  case h_24 =>
    split
    · next hm => subst hm; exact .bare _ _ _ (by simp [bareRows])
    · next hm => exact .undefined _ (by simp [UndefinedParts]; bv_omega)
  case h_25 =>
    split
    · next hm => subst hm; exact .bare _ _ _ (by simp [bareRows])
    · next hm => exact .undefined _ (by simp [UndefinedParts]; bv_omega)
  case h_26 =>
    refine .undefined n (.inl ?_)
    simp only [imp_false, List.mem_cons, List.not_mem_nil, or_false] at *
    omega

theorem TwoOp.number_range (op : TwoOp) :
    1 ≤ op.number ∧ op.number ≤ 0x0C ∧ op.number ≠ 2 ∨ 0x10 ≤ op.number ∧ op.number ≤ 0x13 := by
  cases op <;> decide

/-! ### What the decoder accepts is the encoding of the words it read -/

/-- The words of a row with addressing modes are the words its mode was read from. -/
theorem modeWords_of_readFrom {w1 w2 : Word} {n : Nat} {md : Mode}
    (hn : (opHi (opField w1)).toNat = n) (hr : (1 ≤ n ∧ n ≤ 12) ∨ (16 ≤ n ∧ n ≤ 23))
    (hmd : md.ReadFrom (opMode (opField w1)) (rxField w1) w2) :
    modeWords n (rdField w1) md = if hasSecondWord w1 then [w1, w2] else [w1] := by
  obtain ⟨hnum, hfield, hsecond⟩ := hmd
  have hlen : hasSecondWord w1 = decide (md.number ≤ 2) := by
    rw [hasSecondWord_of_parts hn hnum.symm]
    simpa using fun _ => hr
  rw [modeWords, hfield, ← first_word_of_parts hn hnum.symm, hsecond, ← hnum, hlen]
  by_cases h2 : md.number ≤ 2 <;> simp [h2]

/-- The word of a row without addressing modes is the word it was read from. -/
theorem enc1_of_parts {w1 : Word} (w2 : Word) {n : Nat} {m : BitVec 3} {op : BitVec 8} {rd rx : BitVec 4}
    (hn : (opHi (opField w1)).toNat = n) (hm : opMode (opField w1) = m) (hrd : rdField w1 = rd) (hrx : rxField w1 = rx)
    (hr : n = 0 ∨ 24 ≤ n) (hop : BitVec.ofNat 8 (n * 8 + m.toNat) = op) :
    enc1 op rd rx = if hasSecondWord w1 then [w1, w2] else [w1] := by
  subst hm hrd hrx hop
  have hlen : hasSecondWord w1 = false := by
    rw [hasSecondWord_of_parts hn rfl]
    simp
    omega
  rw [enc1, ← first_word_of_parts hn rfl, hlen]
  rfl

theorem encode_bareRow {n : Nat} {m : BitVec 3} {v : BitVec 4} {i : Instr} (h : (n, m, v, i) ∈ bareRows) :
    (n = 0 ∨ 24 ≤ n) ∧ encode i = enc1 (BitVec.ofNat 8 (n * 8 + m.toNat)) v 0#4 := by
  simp only [bareRows, List.mem_cons, Prod.mk.injEq, List.not_mem_nil, or_false] at h
  rcases h with ⟨rfl, rfl, rfl, rfl⟩ | ⟨rfl, rfl, rfl, rfl⟩ | ⟨rfl, rfl, rfl, rfl⟩ | ⟨rfl, rfl, rfl, rfl⟩ |
    ⟨rfl, rfl, rfl, rfl⟩ <;> exact ⟨by decide, rfl⟩

/-- An instruction the decoder accepts is encoded by the words it was read from (30_encoding.md R117, R122). -/
theorem encode_of_decodeWords {w1 w2 : Word} {i : Instr} (h : decodeWords w1 w2 = .ok i) :
    encode i = if hasSecondWord w1 then [w1, w2] else [w1] := by
  have hfam := decodeWords_family w1 w2
  rw [h] at hfam
  generalize hn : (opHi (opField w1)).toNat = n at hfam
  generalize hx : (.ok i : Except WordError Instr) = x at hfam
  cases hfam with
  | two op =>
    obtain ⟨md, rfl, hmd⟩ := decodeMode_ok hx.symm
    rw [encode_mkTwo, Reg.code_ofCode]
    exact modeWords_of_readFrom hn (by have := op.number_range; omega) hmd
  | st =>
    obtain ⟨md, rfl, hmd⟩ := decodeMemMode_ok hx.symm
    rw [encode_mkSt, Reg.code_ofCode]
    exact modeWords_of_readFrom hn (by decide) hmd
  | jump =>
    obtain ⟨c, t, rfl, hc, ht⟩ := decodeJump_ok hx.symm
    rw [encode_mkJump, hc]
    exact modeWords_of_readFrom hn (by decide) ht
  | call =>
    obtain ⟨t, rfl, hrd, ht⟩ := decodeCall_ok hx.symm
    rw [encode_mkCall, ← hrd]
    exact modeWords_of_readFrom hn (by decide) ht
  | input =>
    obtain ⟨p, rfl, hp⟩ := decodePort_ok hx.symm
    rw [encode_mkIn, Reg.code_ofCode]
    exact modeWords_of_readFrom hn (by decide) hp
  | output =>
    obtain ⟨p, rfl, hp⟩ := decodePort_ok hx.symm
    rw [encode_mkOut, Reg.code_ofCode]
    exact modeWords_of_readFrom hn (by decide) hp
  | push hm =>
    obtain ⟨hrx, rfl⟩ := fixed_ok hx.symm
    exact enc1_of_parts w2 hn hm (Reg.code_ofCode _).symm hrx (by decide) rfl
  | pop hm =>
    obtain ⟨hrx, rfl⟩ := fixed_ok hx.symm
    exact enc1_of_parts w2 hn hm (Reg.code_ofCode _).symm hrx (by decide) rfl
  | bare n v j hrow =>
    obtain ⟨rfl, hrd, hrx⟩ := decodeBare_ok hx.symm
    obtain ⟨hr, henc⟩ := encode_bareRow hrow
    rw [henc]
    exact enc1_of_parts w2 hn rfl hrd hrx hr rfl
  | undefined => cases hx

/-- The register fields of a two-operand instruction whose bits 3:0 are a register code: Rd is bits 7:4 and Rx or Rs bits
3:0 of the word it was read from (10_state.md R27, 30_encoding.md R104). -/
theorem registers_of_decodeWords {w1 w2 : Word} {op : TwoOp} {rd r : Reg} {m : Mode} (hm : m.field = r.code)
    (h : decodeWords w1 w2 = .ok (mkTwo op rd m)) : rd = Reg.ofCode (rdField w1) ∧ r = Reg.ofCode (rxField w1) := by
  have henc := encode_of_decodeWords h
  have hw1 : packFirst (BitVec.ofNat 8 (op.number * 8 + m.number)) rd.code r.code = w1 := by
    rw [encode_mkTwo, modeWords, hm] at henc
    split at henc
    · exact (List.cons.inj henc).1
    · exact (List.cons.inj henc).1
  simp [← hw1]

/-! ### Which first words the decoder rejects -/

/-- The fixed fields of 30_encoding.md R122, by OP[7:3] and OP[2:0]. -/
def FixedParts (n m rd rx : Nat) : Prop :=
  ((n = 0x00 ∨ n = 0x1A ∨ n = 0x1E) ∧ m = 0 ∨ n = 0x1F ∧ m = 7 → rd = 0 ∧ rx = 0) ∧
    (n = 0x15 ∧ m < 2 → rd = 0) ∧
    (n = 0x18 ∧ (m = 0 ∨ m = 4) → rx = 0) ∧
    (n = 0x1A ∧ m = 4 → rd = 0xF ∧ rx = 0) ∧
    (1 ≤ n ∧ n < 0x18 ∧ (m = 0 ∨ m = 2) → rx = 0)

/-- The opcode as a number, by the two parts the decoder reads. -/
theorem opcode_toNat (w1 : Word) : w1.toNat / 256 = (opHi (opField w1)).toNat * 8 + (opMode (opField w1)).toNat := by
  rw [opHi_toNat, opMode_toNat, opField_toNat]
  omega

theorem undefinedFirstWord_iff_parts (w1 : Word) :
    Machine.UndefinedFirstWord w1 ↔
      UndefinedParts (opHi (opField w1)).toNat (opMode (opField w1)).toNat (rdField w1).toNat := by
  have hm := (opMode (opField w1)).isLt
  have hn := (opHi (opField w1)).isLt
  simp only [Machine.UndefinedFirstWord, UndefinedParts, opcode_toNat, ← rdField_toNat, List.mem_cons, List.not_mem_nil,
    or_false]
  refine or_congr ?_ (or_congr ?_ (or_congr ?_ (or_congr ?_ (or_congr ?_ (or_congr ?_ (or_congr ?_ (or_congr ?_ ?_)))))))
    <;> omega

theorem fixedFieldsHold_iff_parts (w1 : Word) :
    Machine.FixedFieldsHold w1 ↔
      FixedParts (opHi (opField w1)).toNat (opMode (opField w1)).toNat (rdField w1).toNat (rxField w1).toNat := by
  have hm := (opMode (opField w1)).isLt
  simp only [Machine.FixedFieldsHold, FixedParts, opcode_toNat, ← rdField_toNat, ← rxField_toNat, List.mem_cons,
    List.not_mem_nil, or_false]
  refine and_congr ?_ (and_congr ?_ (and_congr ?_ (and_congr ?_ ?_))) <;> omega

theorem bareRows_parts {n : Nat} {m : BitVec 3} {v : BitVec 4} {i : Instr} (h : (n, m, v, i) ∈ bareRows)
    (rd rx : BitVec 4) :
    ¬ UndefinedParts n m.toNat rd.toNat ∧ (FixedParts n m.toNat rd.toNat rx.toNat ↔ rd = v ∧ rx = 0#4) := by
  simp only [bareRows, List.mem_cons, Prod.mk.injEq, List.not_mem_nil, or_false] at h
  rcases h with ⟨rfl, rfl, rfl, rfl⟩ | ⟨rfl, rfl, rfl, rfl⟩ | ⟨rfl, rfl, rfl, rfl⟩ | ⟨rfl, rfl, rfl, rfl⟩ |
    ⟨rfl, rfl, rfl, rfl⟩ <;> simp [UndefinedParts, FixedParts] <;> bv_omega

/-- What a family rejects: the undefined first words as such, and of the others those whose fixed fields do not hold. -/
theorem Family.error_iff {m : BitVec 3} {rd rx : BitVec 4} {w2 : Word} {n : Nat} {x : Except WordError Instr}
    (h : Family m rd rx w2 n x) (e : WordError) :
    x = .error e ↔
      (e = .illegal ∧ UndefinedParts n m.toNat rd.toNat) ∨
        (e = .fixedField ∧ ¬ UndefinedParts n m.toNat rd.toNat ∧ ¬ FixedParts n m.toNat rd.toNat rx.toNat) := by
  have hm := m.isLt
  cases h with
  | two op =>
    have := op.number_range
    have hu : ¬ UndefinedParts op.number m.toNat rd.toNat := by simp [UndefinedParts]; omega
    have hf : FixedParts op.number m.toNat rd.toNat rx.toNat ↔ (m.toNat = 0 ∨ m.toNat = 2 → rx = 0#4) := by
      simp [FixedParts]
      bv_omega
    simp [decodeMode_error_iff, hu, hf]
  | st =>
    rw [decodeMemMode_error_iff]
    cases e with
    | illegal => simp [UndefinedParts]; omega
    | fixedField => simp [UndefinedParts, FixedParts]; bv_omega
  | jump =>
    rw [decodeJump_error_iff]
    cases e with
    | illegal => simp [UndefinedParts]; bv_omega
    | fixedField => simp [UndefinedParts, FixedParts]; bv_omega
  | call =>
    rw [decodeCall_error_iff]
    cases e with
    | illegal => simp [UndefinedParts]; omega
    | fixedField => simp [UndefinedParts, FixedParts]; bv_omega
  | input =>
    rw [decodePort_error_iff]
    cases e with
    | illegal => simp [UndefinedParts]
    | fixedField => simp [UndefinedParts, FixedParts]; bv_omega
  | output =>
    rw [decodePort_error_iff]
    cases e with
    | illegal => simp [UndefinedParts]
    | fixedField => simp [UndefinedParts, FixedParts]; bv_omega
  | push hm =>
    rw [fixed_error_iff]
    cases e with
    | illegal => simp [hm, UndefinedParts]
    | fixedField => simp [hm, UndefinedParts, FixedParts]; bv_omega
  | pop hm =>
    rw [fixed_error_iff]
    cases e with
    | illegal => simp [hm, UndefinedParts]
    | fixedField => simp [hm, UndefinedParts, FixedParts]; bv_omega
  | bare n v i hrow =>
    obtain ⟨hu, hf⟩ := bareRows_parts hrow rd rx
    simp [decodeBare_error_iff, hu, hf, imp_iff_not_or]
  | undefined n h => simp [h, eq_comm (b := e)]

/-- The decoder rejects the undefined first words as such, and of the others those whose fixed fields do not hold
(30_encoding.md R123, R125). -/
theorem decodeWords_error_iff {w1 w2 : Word} {e : WordError} :
    decodeWords w1 w2 = .error e ↔
      (e = .illegal ∧ Machine.UndefinedFirstWord w1) ∨
        (e = .fixedField ∧ ¬ Machine.UndefinedFirstWord w1 ∧ ¬ Machine.FixedFieldsHold w1) := by
  rw [undefinedFirstWord_iff_parts, fixedFieldsHold_iff_parts]
  exact (decodeWords_family w1 w2).error_iff e

end Sys2Proof
end

section
/-! SUPPORT. What a register code reads, what reset sets, and when a step stops before it executes an instruction. -/

namespace Sys2Proof.Machine

/-! ### Register codes -/

theorem readReg_ofCode_general (s : State) {c : BitVec 4} (h : c.toNat < 12) :
    readReg s (Reg.ofCode c) = s.g[c.toNat] := by
  simp [Reg.ofCode, h, readReg, Vector.get_eq_getElem]

/-- FLAG as a word is its low byte, zero-extended (10_state.md R27, R31). -/
theorem Flag.toWord_eq_low_byte (f : Flag) : f.toWord = (f.toWord.extractLsb' 0 8).setWidth 16 := by
  rcases f with ⟨e, p, i, u, v, c, s, z⟩
  revert e p i u v c s z
  decide

/-- FLAG as a word is the sum of its bits' weights (10_state.md R31). -/
theorem Flag.toWord_toNat (f : Flag) :
    f.toWord.toNat =
      128 * f.e.toNat + 64 * f.p.toNat + 32 * f.i.toNat + 16 * f.u.toNat + 8 * f.v.toNat + 4 * f.c.toNat +
        2 * f.s.toNat + f.z.toNat := by
  rcases f with ⟨e, p, i, u, v, c, s, z⟩
  revert e p i u v c s z
  decide

theorem writeReg_sp_user {s : State} (h : s.flag.p = false) (v : Word) : writeReg s .sp v = writeReg s .usp v := by
  simp [writeReg, setStackPointer, h]

theorem readReg_sp_user {s : State} (h : s.flag.p = false) : readReg s .sp = readReg s .usp := by
  simp [readReg, stackPointer, h]

theorem sameBytes_writeReg (s : State) (r : Reg) (v : Word) : SameBytesBut [] s (writeReg s r v) :=
  fun a _ => physByte_congr (writeReg_iplAttached s r v) (writeReg_mem s r v) a

/-- LD completes where its operand can be read (40_nop_load_store.md R141). -/
theorem load_eq {s : State} {m : Mode} (h : OperandReadable s m) (rd : Reg) :
    load s rd m = .next { writeReg s rd (operandValue s m) with pc := s.pc + modeBytes m } := by
  simp [load, operand_eq h]

/-! ### The invariant -/

theorem State.wf_iff (s : State) :
    s.wf = true ↔
      Memory.wf s.mem = true ∧ s.mmuEnable = false ∧ s.dev.usdControl.setWidth 3 = 0#3 ∧
        ∀ e ∈ s.outputs, eventOk e = true := by
  simp [State.wf, and_assoc]

/-! ### When no interrupt is taken -/

/-- No interrupt is taken with E = 0, nor where the source picked is not pending (60_exceptions.md R242). -/
theorem interruptTaken_eq_none {s : State}
    (h : s.flag.e = false ∨ ∀ b, s.interrupts.head? = some b → ∀ src, b.pick = some src → src ∉ b.pending) :
    interruptTaken s = none := by
  cases ht : interruptTaken s with
  | none => rfl
  | some src =>
    obtain ⟨he, b, rest, hi, hp, hmem⟩ := interruptTaken_some ht
    rcases h with h | h
    · simp [he] at h
    · exact absurd hmem (h b (by simp [hi]) src hp)

/-! ### The fetch -/

/-- The word fetched as the second one (30_encoding.md R116). -/
def secondWord (s : State) : Word := if hasSecondWord (physWord s s.pc) then physWord s (s.pc + 2#16) else 0#16

theorem fetchWords_eq {s : State} (h : WordReadable s s.pc) : fetchWords s = .ok (physWord s s.pc, secondWord s) := by
  obtain ⟨hmmu, heven⟩ := h
  have h2 : WordReadable s (s.pc + 2#16) := ⟨hmmu, by rw [isOdd_add_two, heven]⟩
  rw [fetchWords, readWord_eq ⟨hmmu, heven⟩, secondWord]
  cases hw : hasSecondWord (physWord s s.pc) <;> simp [hw, readWord_eq h2]

/-- A fetch at an odd PC is a fault (20_memory.md R67). -/
theorem fetch_odd {s : State} (h : isOdd s.pc = true) : fetch s = .error (.fault (.addressFault s.pc)) := by
  simp [fetch, fetchWords, readWord_odd h]

/-- A first word that decodes to no instruction stops the fetch (30_encoding.md R123, R125). -/
theorem fetch_undecodable {s : State} {e : WordError} (h : WordReadable s s.pc)
    (hd : decodeWords (physWord s s.pc) (secondWord s) = .error e) :
    fetch s = .error (undecodable (physWord s s.pc) e) := by
  simp [fetch, fetchWords_eq h, hd]

theorem fetch_illegal {s : State} (h : WordReadable s s.pc) (hu : UndefinedFirstWord (physWord s s.pc)) :
    fetch s = .error (.fault (.illegalInstruction (physWord s s.pc))) :=
  fetch_undecodable h (decodeWords_error_iff.mpr (.inl ⟨rfl, hu⟩))

theorem fetch_fixedField {s : State} (h : WordReadable s s.pc) (hu : ¬ UndefinedFirstWord (physWord s s.pc))
    (hf : ¬ FixedFieldsHold (physWord s s.pc)) : fetch s = .error (.refusal (.fixedField (physWord s s.pc))) :=
  fetch_undecodable h (decodeWords_error_iff.mpr (.inr ⟨rfl, hu, hf⟩))

/-! ### When a step stops before an instruction -/

theorem step_halted {s : State} (h : s.halted = true) : step s = .fault .halted := by
  simp [step, h]

theorem step_mmuEnabled {s : State} (hh : s.halted = false) (hm : s.mmuEnable = true) :
    step s = .refused .mmuEnabled := by
  simp [step, hh, hm]

/-- Where no interrupt is taken, a fetch that stops stops the step. -/
theorem step_of_fetch_error {s : State} {e : Stop} (hh : s.halted = false) (hm : s.mmuEnable = false)
    (hi : interruptTaken s = none) (hf : fetch (passBoundary s) = .error e) : step s = finish (.error e) := by
  simp [step, hh, hm, hi, hf]

theorem physWord_passBoundary (s : State) (a : Word) : physWord (passBoundary s) a = physWord s a :=
  physWord_congr rfl rfl a

end Sys2Proof.Machine
end

section
/-! CERTIFICATES. The statements about reset, the registers, FLAG and the fetch. -/

namespace Sys2Proof.Machine

/-- Settles O11: the fetch stops the step, by what the decoder rejects. -/
theorem stepStopsOnBadFetch : Obligations.StepStopsOnBadFetch := by
  intro s
  refine ⟨step_halted, step_mmuEnabled, fun hh hm hq => ?_⟩
  have hi := interruptTaken_eq_none hq
  have hread (heven : isOdd s.pc = false) : WordReadable (passBoundary s) (passBoundary s).pc := ⟨hm, heven⟩
  have hw : physWord (passBoundary s) (passBoundary s).pc = physWord s s.pc := physWord_passBoundary s s.pc
  refine ⟨fun hodd => ?_, fun heven hu => ?_, fun heven hu hf => ?_⟩
  · exact step_of_fetch_error hh hm hi (fetch_odd (s := passBoundary s) hodd)
  · have hfetch := fetch_illegal (hread heven) (hw.symm ▸ hu)
    rw [hw] at hfetch
    exact step_of_fetch_error hh hm hi hfetch
  · have hfetch := fetch_fixedField (hread heven) (hw.symm ▸ hu) (hw.symm ▸ hf)
    rw [hw] at hfetch
    exact step_of_fetch_error hh hm hi hfetch

/-- Settles O14: the codes one by one, and the fields of the words that encode the instruction. -/
theorem registerCodesReadTheirRegisters : Obligations.RegisterCodesReadTheirRegisters := by
  refine ⟨fun s c => ⟨readReg_ofCode_general s, ?_, ?_, ?_, ?_⟩, fun w1 w2 op rd r dsp m hm h => ?_⟩
  · rintro rfl; rfl
  · rintro rfl; rfl
  · rintro rfl; rfl
  · rintro rfl; exact Flag.toWord_eq_low_byte s.flag
  · have hfield : m.field = r.code := by
      simp only [List.mem_cons, List.not_mem_nil, or_false] at hm
      rcases hm with rfl | rfl | rfl | rfl <;> rfl
    exact registers_of_decodeWords hfield h

/-- Settles O15, by the rule for each part of the state. -/
theorem registerReadsBackWhatWasWritten : Obligations.RegisterReadsBackWhatWasWritten := by
  intro s r v hr
  exact ⟨readReg_writeReg_same hr v, writeReg_sameCellsBut s r v, by simp [hr], writeReg_pc s r v, sameBytes_writeReg s r v,
    sameIo_writeReg s r v, writeReg_halted s r v, writeReg_interrupts s r v⟩

/-- Settles O12: the fields of the state after reset, and of the state after a reset of `s`. -/
theorem resetAttachesIplAndKeepsRn4020Ram : Obligations.ResetAttachesIplAndKeepsRn4020Ram :=
  ⟨rfl, rfl, fun _ => ⟨rfl, rfl, rfl⟩⟩

/-- Settles O13: the fields of the state after reset. -/
theorem resetIsPrivilegedWithInterruptsOff : Obligations.ResetIsPrivilegedWithInterruptsOff :=
  ⟨rfl, rfl, rfl, rfl⟩

/-- Settles O16: code Eh is USP, and in user mode code Dh is USP too. -/
theorem codeEhIsUspInBothModes : Obligations.CodeEhIsUspInBothModes :=
  fun _ v => ⟨rfl, rfl, fun hp => ⟨readReg_sp_user hp, writeReg_sp_user hp v⟩⟩

/-- Settles O17: FLAG is the sum of its bits' weights, and LD in mode Reg always completes. -/
theorem flagReadsAsZeroExtendedByte : Obligations.FlagReadsAsZeroExtendedByte := by
  refine fun s => ⟨Flag.toWord_toNat s.flag, fun rd _ => ?_⟩
  have hexec : exec (.ldReg rd .flag) s = load s rd (.reg .flag) := exec_mkTwo .ld rd (.reg .flag) s
  exact hexec.trans (load_eq (m := .reg .flag) trivial rd)

/-- Settles O55: each clause of the invariant at reset. -/
theorem resetStateIsWellFormed : Obligations.ResetStateIsWellFormed :=
  (State.wf_iff State.reset).mpr ⟨Memory.wf_nil, rfl, rfl, by simp [State.reset]⟩

end Sys2Proof.Machine
end

section
/-! SUPPORT. The memory space and the I/O space from outside: which addresses show the IPL ROM, when an operand, a stack
access or an I/O row stops an instruction, what the TLB rows keep, and what every instruction does to the I/O side. -/

namespace Sys2Proof.Machine

/-! ### The IPL ROM -/

theorem inIplRegion_of_mem {a : Word} (hlo : 0xE000 ≤ a.toNat) (hhi : a.toNat < 0xFFE0) : InIplRegion a := by
  have hbase := Config.iplBase.isLt
  exact ⟨by omega, by omega⟩

/-- An address shows the ROM while the ROM is attached and the address is in its region (20_memory.md R78). -/
theorem inIplRom_iff (s : State) (a : Word) : inIplRom s a = true ↔ s.iplAttached = true ∧ InIplRegion a := by
  simp [inIplRom, InIplRegion, and_assoc]

theorem inIplRom_eq_false_iff (s : State) (a : Word) :
    inIplRom s a = false ↔ s.iplAttached = false ∨ ¬ InIplRegion a := by
  rw [← Bool.not_eq_true, inIplRom_iff, not_and_or, Bool.not_eq_true]

/-- A write where the ROM shows is refused (20_memory.md R65). -/
theorem writeByte_rom {s : State} {a : Word} (hm : s.mmuEnable = false) (h : inIplRom s a = true) (b : Byte) :
    writeByte s a b = .error (.refusal (.romWrite a)) := by
  simp [writeByte, translate_eq hm, h]

/-! ### Operands at an odd address -/

theorem memOperand_odd {s : State} {a : MemMode} (ha : ∀ rx, a ≠ .bIndr rx) (h : isOdd (effAddr s a) = true) :
    memOperand s a = .error (.fault (.addressFault (effAddr s a))) := by
  cases a with
  | bIndr rx => exact absurd rfl (ha rx)
  | drct dsp => exact readWord_odd h
  | index dsp rx => exact readWord_odd h
  | fpRlt d => exact readWord_odd h
  | indr rx => exact readWord_odd h

theorem storeValue_odd {s : State} {a : MemMode} (ha : ∀ rx, a ≠ .bIndr rx) (h : isOdd (effAddr s a) = true)
    (v : Word) : storeValue s a v = .error (.fault (.addressFault (effAddr s a))) := by
  cases a with
  | bIndr rx => exact absurd rfl (ha rx)
  | drct dsp => exact writeWord_odd h v
  | index dsp rx => exact writeWord_odd h v
  | fpRlt d => exact writeWord_odd h v
  | indr rx => exact writeWord_odd h v

theorem twoOperand_of_operand_error {s : State} {rd : Reg} {m : Mode} {e : Stop} (hrd : rd ≠ .flag)
    (h : operand s m = .error e) (compute : State → Word → Word → Access AluResult) :
    twoOperand s rd m compute = finish (.error e) := by
  simp [twoOperand, hrd, h]

/-- The two-operand instructions but for LD and CMP have the one common form. -/
theorem twoMeaning_eq_twoOperand {op : TwoOp} (hld : op ≠ .ld) (hcmp : op ≠ .cmp) (s : State) (rd : Reg) (m : Mode) :
    ∃ compute, twoMeaning s rd m op = twoOperand s rd m compute := by
  cases op
  case ld => exact absurd rfl hld
  case cmp => exact absurd rfl hcmp
  all_goals
    simp only [twoMeaning, add, subtract, logicalAnd, logicalOr, logicalXor, addScaled, multiply, divide, modulo,
      shiftLeftArithmetic, shiftLeftLogical, shiftRightArithmetic, shiftRightLogical]
    exact ⟨_, rfl⟩

/-- An operand that cannot be read stops every two-operand instruction that reads it: LD and CMP with any Rd, the others
with any Rd they are not refused for. -/
theorem twoMeaning_of_operand_error {s : State} {rd : Reg} {m : Mode} {e : Stop} (h : operand s m = .error e)
    {op : TwoOp} (hop : rd ≠ .flag ∨ op = .ld ∨ op = .cmp) : twoMeaning s rd m op = finish (.error e) := by
  by_cases hld : op = .ld
  · subst hld
    simp [twoMeaning, load, h]
  by_cases hcmp : op = .cmp
  · subst hcmp
    simp [twoMeaning, compare, h]
  have hrd : rd ≠ .flag := by simpa [hld, hcmp] using hop
  obtain ⟨compute, hform⟩ := twoMeaning_eq_twoOperand hld hcmp s rd m
  rw [hform, twoOperand_of_operand_error hrd h]

/-! ### The stack with an odd stack pointer -/

theorem pushRegister_odd {s : State} {rd : Reg} (hr : namesStackPointer s rd = false)
    (h : isOdd (stackPointer s) = true) :
    pushRegister s rd = .fault (.addressFault (stackPointer s - 2#16)) := by
  simp [pushRegister, hr, push_odd h]

theorem popRegister_odd {s : State} {rd : Reg} (hr : namesStackPointer s rd = false)
    (h : isOdd (stackPointer s) = true) : popRegister s rd = .fault (.addressFault (stackPointer s)) := by
  simp [popRegister, hr, pop_odd h]

theorem call_odd {s : State} (h : isOdd (stackPointer s) = true) (g : Target) :
    call s g = .fault (.addressFault (stackPointer s - 2#16)) := by
  simp [call, push_odd h]

theorem returnFromSubroutine_odd {s : State} (h : isOdd (stackPointer s) = true) :
    returnFromSubroutine s = .fault (.addressFault (stackPointer s)) := by
  simp [returnFromSubroutine, pop_odd h]

theorem returnFromInterrupt_odd {s : State} (h : isOdd (stackPointer s) = true) :
    returnFromInterrupt s = .fault (.addressFault (stackPointer s)) := by
  simp [returnFromInterrupt, trapReturn, pop_odd h]

/-- HALT in user mode, and IN and OUT with neither P nor I, are a privilege violation (60_exceptions.md R232, R256). -/
theorem exec_of_privilege_violation {s : State} {i : Instr} (hp : s.flag.p = false)
    (hi : i = .halt ∨ s.flag.i = false ∧ ((∃ rd m, i = mkIn rd m) ∨ ∃ rd m, i = mkOut rd m)) :
    exec i s = privilegeViolation s := by
  rcases hi with rfl | ⟨hio, ⟨rd, m, rfl⟩ | ⟨rd, m, rfl⟩⟩
  · simp [exec_halt, halt, hp]
  · simp [exec_mkIn, input, mayDoIo, hp, hio]
  · simp [exec_mkOut, output, mayDoIo, hp, hio]

/-- The source picked at a boundary is taken with E = 1 where it is pending (60_exceptions.md R242). -/
theorem interruptTaken_of_pick {s : State} {b : Boundary} {src : IntSource} (he : s.flag.e = true)
    (hb : s.interrupts.head? = some b) (hp : b.pick = some src) (hmem : src ∈ b.pending) :
    interruptTaken s = some src := by
  obtain ⟨rest, hl⟩ := List.head?_eq_some_iff.mp hb
  simp [interruptTaken, hl, hp, he, hmem]

theorem step_of_interrupt {s : State} {src : IntSource} (hh : s.halted = false) (hm : s.mmuEnable = false)
    (hi : interruptTaken s = some src) : step s = takeInterrupt (passBoundary s) src := by
  simp [step, hh, hm, hi]

/-! ### Refused I/O -/

theorem mayDoIo_iff (s : State) : mayDoIo s = true ↔ s.flag.p = true ∨ s.flag.i = true := by
  simp [mayDoIo]

theorem input_of_not_ioAddress {s : State} {m : PortMode} (hp : mayDoIo s = true)
    (ha : isIoAddress (portAddr s m) = false) (rd : Reg) :
    input s rd m = .refused (.ioAddress (portAddr s m)) := by
  simp [input, hp, ha]

theorem output_of_not_ioAddress {s : State} {m : PortMode} (hp : mayDoIo s = true)
    (ha : isIoAddress (portAddr s m) = false) (rd : Reg) :
    output s rd m = .refused (.ioAddress (portAddr s m)) := by
  simp [output, hp, ha]

/-- An OUT to the I/O address `n` is refused where the write of row `n` is. -/
theorem exec_out_of_refused_row {s : State} {rd : Reg} {m : PortMode} {n : Nat} {r : Refusal} (hp : mayDoIo s = true)
    (he : (portAddr s m).toNat = n) (hn : n < 256 ∧ n % 2 = 0)
    (hw : ∀ a : BitVec 8, a.toNat = n → ioWrite s a (readReg s rd) = .error (.refusal r)) :
    exec (mkOut rd m) s = .refused r := by
  subst he
  have ha : isIoAddress (portAddr s m) = true := (isIoAddress_iff _).mpr hn
  simp [exec_mkOut, output, hp, ha, hw _ (ioRow_toNat hn.1)]

/-- An OUT to row 10h that starts the microSD unit: bit 2, 1 or 0 set (20_memory.md R92). -/
theorem ioWrite_microSdStart {a : BitVec 8} {v : Word} (s : State) (ha : a.toNat = 0x10) (hv : v.toNat % 8 ≠ 0) :
    ioWrite s a v = .error (.refusal .microSdStart) := by
  have hbits : v.setWidth 3 ≠ 0#3 := fun h => hv (by simpa using congrArg BitVec.toNat h)
  simp [ioWrite, ha, hbits]

theorem ioWrite_iplDetachBitClear {a : BitVec 8} {v : Word} (s : State) (ha : a.toNat = 0xA0)
    (hv : v.getLsbD 0 = false) : ioWrite s a v = .error (.refusal .iplDetachBitClear) := by
  simp only [ioWrite, ha, hv]
  rfl

theorem ioWrite_mmuEnabled {a : BitVec 8} {v : Word} (s : State) (ha : a.toNat = 0xA2)
    (hv : v.getLsbD 0 = true) : ioWrite s a v = .error (.refusal .mmuEnabled) := by
  simp [ioWrite, ha, hv]

/-! ### The TLB rows -/

theorem isTlbRow_iff (a : BitVec 8) : isTlbRow a = true ↔ 0x80 ≤ a.toNat ∧ a.toNat < 0xA0 := by
  simp [isTlbRow]

/-- The row 80h + 4k is the upper row of entry k (20_memory.md R82, log 24). -/
theorem tlb_upper_row (k : Fin 8) :
    let e : Word := BitVec.ofNat 16 (0x80 + 4 * k.val)
    isIoAddress e = true ∧ isTlbRow (ioRow e) = true ∧ tlbIndex (ioRow e) = k ∧ isTlbUpper (ioRow e) = true := by
  revert k
  decide

/-- The row 82h + 4k is the lower row of entry k (20_memory.md R82, log 24). -/
theorem tlb_lower_row (k : Fin 8) :
    let e : Word := BitVec.ofNat 16 (0x82 + 4 * k.val)
    isIoAddress e = true ∧ isTlbRow (ioRow e) = true ∧ tlbIndex (ioRow e) = k ∧ isTlbUpper (ioRow e) = false := by
  revert k
  decide

theorem ioWrite_tlb {a : BitVec 8} (h : isTlbRow a = true) (s : State) (v : Word) :
    ioWrite s a v = .ok (recordOutput (tlbWrite s a v) a v) := by
  have hrange := (isTlbRow_iff a).mp h
  unfold ioWrite
  split
  case h_5 => simp [h]
  all_goals omega

theorem ioAnswer_tlb {a : BitVec 8} (h : isTlbRow a = true) (s : State) : ioAnswer s a = tlbAnswer s a := by
  have hrange := (isTlbRow_iff a).mp h
  unfold ioAnswer
  simp only
  split
  case h_9 => simp [h]
  all_goals omega

/-- What a TLB entry becomes when `v` is written to its upper or its lower row (20_memory.md R82, R83). -/
def TlbEntry.written (t : TlbEntry) (upper : Bool) (v : Word) : TlbEntry :=
  if upper then { t with page := wordLo v } else t.setLow v

theorem tlbWrite_get (s : State) (a : BitVec 8) (v : Word) (j : Fin 8) :
    (tlbWrite s a v).tlb.get j =
      if j = tlbIndex a then (s.tlb.get j).written (isTlbUpper a) v else s.tlb.get j := by
  by_cases h : j = tlbIndex a
  · subst h
    simp [tlbWrite, TlbEntry.written, Vector.get_eq_getElem]
  · have hne : (tlbIndex a).val ≠ j.val := fun hv => h (Fin.ext hv.symm)
    simp [tlbWrite, h, Vector.get_eq_getElem, hne]

/-- An OUT to a TLB row and an IN of it both complete; the OUT writes the row's entry and the IN answers what the row then
holds. -/
theorem exec_out_in_tlb {s : State} {rd' : Reg} {e : Word} (hio : mayDoIo s = true) (hrd : rd' ≠ .flag)
    (he : isIoAddress e = true) (ht : isTlbRow (ioRow e) = true) (rd : Reg) :
    ∃ t u, exec (.outDrct rd e) s = .next t ∧ exec (.inDrct rd' e) t = .next u ∧
      readReg u rd' = tlbAnswer t (ioRow e) ∧
      ∀ j, t.tlb.get j = (tlbWrite s (ioRow e) (readReg s rd)).tlb.get j := by
  have hout : exec (.outDrct rd e) s = _ :=
    (exec_mkOut rd (.drct e) s).trans (output_eq hio he (ioWrite_tlb ht s (readReg s rd)))
  refine ⟨_, _, hout, (exec_mkIn rd' (.drct e) _).trans (input_eq hio he), ?_, fun j => rfl⟩
  rw [← ioAnswer_tlb ht]
  exact (readReg_congr rfl rfl rfl rfl rfl rd').trans (readReg_writeReg_same hrd _)

/-- The low byte of the upper row is PAGE; the high byte is free (20_memory.md R83). -/
theorem wordLo_tlbAnswer_upper {s : State} {a : BitVec 8} (h : isTlbUpper a = true) :
    wordLo (tlbAnswer s a) = (s.tlb.get (tlbIndex a)).page := by
  simp only [tlbAnswer, h, if_true, wordLo]
  ext b hb
  have hmask : (0xFF00#16).getLsbD b = false := by
    revert b
    decide
  simp [hmask, hb]
  omega

theorem getLsbD_low_setLow (t : TlbEntry) (v : Word) {b : Nat} (hb : b < 16) (h14 : b ≠ 14) (h13 : b ≠ 13) :
    (t.setLow v).low.getLsbD b = v.getLsbD b := by
  simp only [TlbEntry.low, TlbEntry.setLow, wordLo, BitVec.getLsbD_append, BitVec.getLsbD_extractLsb']
  have hdefined : b < 13 ∨ b = 15 := by omega
  rcases hdefined with hlow | rfl
  · interval_cases b <;> simp
  · simp

/-- The lower row answers what is stored but for the undefined bits 14 and 13 (20_memory.md R83). -/
theorem getLsbD_tlbAnswer_lower {s : State} {a : BitVec 8} (h : isTlbUpper a = false) {b : Nat} (hb : b < 16)
    (h14 : b ≠ 14) (h13 : b ≠ 13) :
    (tlbAnswer s a).getLsbD b = (s.tlb.get (tlbIndex a)).low.getLsbD b := by
  have hmask : (0x6000#16).getLsbD b = false := by
    revert b
    decide
  simp [tlbAnswer, h, hmask]

/-! ### What every instruction does to the I/O side and to the form of memory -/

/-- Nothing of the I/O side changed, and memory, if it was in canonical form, still is. -/
def IoKept (s t : State) : Prop := SameIo s t ∧ (Memory.wf s.mem = true → Memory.wf t.mem = true)

/-- One I/O row was written, an even one (20_memory.md R73, R75). -/
def IoRowWritten (s t : State) : Prop :=
  ∃ (a : BitVec 8) (v : Word) (u : State), a.toNat % 2 = 0 ∧ ioWrite s a v = .ok u ∧ t = { u with pc := t.pc }

theorem trapEntry_ioKept {s t : State} {k : Fin 16} {saved : Word} (h : trapEntry s k saved = .ok t) :
    IoKept s t := by
  obtain ⟨⟨-, -, -, -, -, -, -, hio, -, -⟩, -⟩ := trapEntry_taken h
  obtain ⟨-, rfl⟩ := trapEntry_ok h
  exact ⟨hio, fun hm => pushed_wf _ (pushed_wf _ hm)⟩

theorem ioRow_even {e : Word} (h : isIoAddress e = true) : (ioRow e).toNat % 2 = 0 := by
  obtain ⟨hlt, heven⟩ := (isIoAddress_iff e).mp h
  rw [ioRow_toNat hlt, heven]

/-- Every instruction that completes leaves the I/O side as it was, or writes one I/O row. -/
theorem exec_io {s t : State} {i : Instr} (h : exec i s = .next t) : IoKept s t ∨ IoRowWritten s t := by
  rcases exec_next h with ⟨k, saved, htrap, -⟩ | ⟨-, -, rfl⟩ | ⟨rd, m, u, -, -, ha, hw, rfl⟩ | ⟨-, -, hio, hmem, -⟩
  · exact .inl (trapEntry_ioKept htrap)
  · exact .inl ⟨sameIo_refl s, id⟩
  · exact .inr ⟨_, _, u, ioRow_even ha, hw, rfl⟩
  · exact .inl ⟨hio, hmem⟩

theorem step_io {s t : State} (h : step s = .next t) :
    IoKept (passBoundary s) t ∨ IoRowWritten (passBoundary s) t := by
  obtain ⟨-, -, ⟨src, -, htrap⟩ | ⟨-, i, -, hexec⟩⟩ := step_next h
  · exact .inl (trapEntry_ioKept htrap)
  · exact exec_io hexec

/-! ### What keeps the invariant -/

theorem IoKept.wf {s t : State} (h : IoKept s t) (hs : s.wf = true) : t.wf = true := by
  obtain ⟨⟨-, hmmu, -, -, -, -, -, -, hdev, hout⟩, hmem⟩ := h
  rw [State.wf_iff] at hs ⊢
  obtain ⟨hm, he, hd, ho⟩ := hs
  exact ⟨hmem hm, hmmu.trans he, hdev ▸ hd, hout ▸ ho⟩

/-- Only a write of row 10h changes the microSD control register. -/
theorem Devices.written_usdControl (d : Devices) (a : BitVec 8) (v : Word) :
    (d.written a v).usdControl = if a.toNat = 0x10 then wordLo v else d.usdControl := by
  unfold Devices.written
  split <;> simp_all

/-- Every write of an even row makes an event that the I/O space allows: only the low byte reaches an 8-bit row. -/
theorem eventOk_reachesDevice {a : BitVec 8} (ha : a.toNat % 2 = 0) (v : Word) :
    eventOk { row := a, value := reachesDevice a v } = true := by
  have hbyte (b : Byte) : wordHi (b.setWidth 16) = 0#8 := by
    ext k hk
    simp [wordHi]
  cases hrow : isByteRow a <;> simp [eventOk, ha, reachesDevice, hrow, hbyte]

theorem setWidth_wordLo (v : Word) : (wordLo v).setWidth 3 = v.setWidth 3 := by
  ext k hk
  simp [wordLo]
  omega

/-- A row that is written starts no microSD operation: row 10h refuses bits 2 to 0, no other row is the control register
(20_memory.md R92). -/
theorem ioWrite_usdControl {s u : State} {a : BitVec 8} {v : Word} (h : ioWrite s a v = .ok u)
    (hs : s.dev.usdControl.setWidth 3 = 0#3) : u.dev.usdControl.setWidth 3 = 0#3 := by
  obtain ⟨w, rfl, hcases⟩ := ioWrite_ok h
  have hdev : w.dev = s.dev := by
    rcases hcases with ⟨-, -, rfl⟩ | ⟨-, -, rfl⟩ | ⟨-, -, rfl⟩ | ⟨-, rfl⟩ | ⟨-, rfl⟩ | ⟨-, -, rfl⟩ <;> rfl
  rw [recordOutput_dev, hdev, Devices.written_usdControl]
  split
  · next ha =>
    have hv : v.setWidth 3 = 0#3 := by
      by_contra hne
      simp [ioWrite, ha, hne] at h
    rw [setWidth_wordLo, hv]
  · exact hs

theorem IoRowWritten.wf {s t : State} (h : IoRowWritten s t) (hs : s.wf = true) : t.wf = true := by
  obtain ⟨a, v, u, heven, hw, ht⟩ := h
  obtain ⟨-, -, hmem, -, -, hout, hmmu, -⟩ := ioWrite_frame hw
  rw [State.wf_iff] at hs ⊢
  obtain ⟨hm, he, hd, ho⟩ := hs
  rw [ht]
  have husd : u.dev.usdControl.setWidth 3 = 0#3 := ioWrite_usdControl hw hd
  refine ⟨hmem ▸ hm, hmmu he, husd, fun e hin => ?_⟩
  have hcases : e ∈ s.outputs ∨ e = { row := a, value := reachesDevice a v } := by
    simpa [hout] using hin
  rcases hcases with hold | rfl
  · exact ho e hold
  · exact eventOk_reachesDevice heven v

/-! ### What detaches the IPL ROM -/

/-- The ROM is attached or not as it was, or an event of row A0h was made and the ROM is detached (20_memory.md R79). -/
def IplKeptOrDetached (s t : State) : Prop :=
  t.iplAttached = s.iplAttached ∨
    t.iplAttached = false ∧ ∃ x : Word, t.outputs = s.outputs ++ [{ row := 0xA0#8, value := x }]

theorem ipl_of_io {s t : State} (h : IoKept s t ∨ IoRowWritten s t) : IplKeptOrDetached s t := by
  rcases h with ⟨⟨hipl, -⟩, -⟩ | ⟨a, v, u, -, hw, ht⟩
  · exact .inl hipl
  · obtain ⟨-, -, -, -, -, hout, -, hipl⟩ := ioWrite_frame hw
    rw [ht]
    rcases hipl with hipl | ⟨hipl, rfl⟩
    · exact .inl hipl
    · exact .inr ⟨hipl, _, hout⟩

end Sys2Proof.Machine
end

section
/-! CERTIFICATES. The statements about the memory space and the I/O space. -/

namespace Sys2Proof.Machine

/-- Settles O54: a step leaves the I/O side as it was or writes one I/O row, and both keep the invariant. -/
theorem everyStepKeepsWellFormedState : Obligations.EveryStepKeepsWellFormedState := by
  intro s t hs h
  have hpass : (passBoundary s).wf = true := hs
  rcases step_io h with hkept | hrow
  · exact hkept.wf hpass
  · exact hrow.wf hpass

/-- Settles O35: the operand, or the write of ST, stops the instruction. -/
theorem oddWordOperandFaults : Obligations.OddWordOperandFaults := by
  intro s rd a ha hodd
  refine ⟨fun op hop => ?_, ?_⟩
  · have hop' : operand s (.mem a) = .error (.fault (.addressFault (effAddr s a))) := memOperand_odd ha hodd
    rw [exec_mkTwo, twoMeaning_of_operand_error hop' hop, finish_fault]
  · rw [exec_mkSt, store, storeValue_odd ha hodd]
    rfl

/-- Settles O51: the address check of IN and OUT, and the three rows that refuse a value. -/
theorem undescribedIoIsRefused : Obligations.UndescribedIoIsRefused := by
  intro s rd m hpriv
  have hp := (mayDoIo_iff s).mpr hpriv
  refine ⟨fun h => ?_, fun he hv => ?_, fun he hv => ?_, fun he hv => ?_⟩
  · have ha : isIoAddress (portAddr s m) = false := by
      rw [← Bool.not_eq_true, isIoAddress_iff]
      omega
    rw [exec_mkIn, exec_mkOut]
    exact ⟨input_of_not_ioAddress hp ha rd, output_of_not_ioAddress hp ha rd⟩
  · exact exec_out_of_refused_row hp he (by decide) fun _ ha => ioWrite_microSdStart s ha hv
  · exact exec_out_of_refused_row hp he (by decide) fun _ ha => ioWrite_iplDetachBitClear s ha hv
  · exact exec_out_of_refused_row hp he (by decide) fun _ ha => ioWrite_mmuEnabled s ha hv

/-- Settles O52: the OUT writes the entry of the row, and the IN answers what the row then holds. -/
theorem tlbEntryReadsBack : Obligations.TlbEntryReadsBack := by
  intro s rd rd' k hpriv hrd
  have hp := (mayDoIo_iff s).mpr hpriv
  obtain ⟨heHi, htHi, hkHi, hupHi⟩ := tlb_upper_row k
  obtain ⟨heLo, htLo, hkLo, hupLo⟩ := tlb_lower_row k
  refine ⟨?_, ?_⟩
  · obtain ⟨t, u, hout, hin, hread, htlb⟩ := exec_out_in_tlb hp hrd heHi htHi rd
    have hentry : t.tlb.get k = { s.tlb.get k with page := wordLo (readReg s rd) } := by
      rw [htlb, tlbWrite_get, hkHi, hupHi, if_pos rfl]
      rfl
    refine ⟨t, u, hout, hin, ?_, hentry, fun j hj => ?_⟩
    · rw [hread, wordLo_tlbAnswer_upper hupHi, hkHi, hentry]
    · rw [htlb, tlbWrite_get, hkHi, if_neg hj]
  · obtain ⟨t, u, hout, hin, hread, htlb⟩ := exec_out_in_tlb hp hrd heLo htLo rd
    have hentry : t.tlb.get k = (s.tlb.get k).setLow (readReg s rd) := by
      rw [htlb, tlbWrite_get, hkLo, hupLo, if_pos rfl]
      rfl
    refine ⟨t, u, hout, hin, fun b hb h14 h13 => ?_, hentry, fun j hj => ?_⟩
    · rw [hread, getLsbD_tlbAnswer_lower hupLo hb h14 h13, hkLo, hentry, getLsbD_low_setLow _ _ hb h14 h13]
    · rw [htlb, tlbWrite_get, hkLo, if_neg hj]

/-- Settles O58: what a step or an instruction does to the I/O side, read at the ROM's switch. -/
theorem iplIsDetachedForGood : Obligations.IplIsDetachedForGood := by
  intro s t h
  have hipl : IplKeptOrDetached s t := by
    rcases h with hstep | ⟨i, hexec⟩
    · exact ipl_of_io (s := passBoundary s) (step_io hstep)
    · exact ipl_of_io (exec_io hexec)
  rcases hipl with hkept | ⟨hdet, hout⟩
  · exact ⟨hkept.trans, fun hatt hdet => by simp [hkept, hatt] at hdet⟩
  · exact ⟨fun _ => hdet, fun _ _ => hout⟩

/-- Settles O60: each stack access and each trap entry faults at its first word. -/
theorem oddStackPointerFaults : Obligations.OddStackPointerFaults := by
  intro s
  refine ⟨fun hodd => ⟨fun rd hr => ⟨pushRegister_odd hr hodd, popRegister_odd hr hodd⟩, fun g => ?_,
    returnFromSubroutine_odd hodd, returnFromInterrupt_odd hodd⟩, fun hodd => ⟨?_, fun i hp hi => ?_, ?_⟩⟩
  · rw [exec_mkCall, call_odd hodd]
  · rw [exec_svc, supervisorCall, trapEntry_odd hodd, finish_fault]
  · rw [exec_of_privilege_violation hp hi, privilegeViolation, trapEntry_odd hodd, finish_fault]
  · intro b src hh hm he hb hpick hmem
    rw [step_of_interrupt hh hm (interruptTaken_of_pick he hb hpick hmem), takeInterrupt,
      trapEntry_odd (s := passBoundary s) hodd, finish_fault, passBoundary_ssp]

/-- Settles O23: an address shows the ROM or is RAM. -/
theorem attachedIplRomHidesRam : Obligations.AttachedIplRomHidesRam := by
  intro s a b hm
  refine ⟨inIplRegion_of_mem, fun hatt hreg => ?_, fun h => ?_⟩
  · have hrom := (inIplRom_iff s a).mpr ⟨hatt, hreg⟩
    exact ⟨by simp [readByte_eq hm, physByte, hrom], writeByte_rom hm hrom b⟩
  · have hram := (inIplRom_eq_false_iff s a).mpr h
    refine ⟨storeByte s a b, writeByte_eq ⟨hm, hram⟩ b, ?_, fun x hx => ?_⟩
    · have hm' : (storeByte s a b).mmuEnable = false := hm
      rw [readByte_eq hm', physByte_storeByte hram, if_pos rfl]
    · rw [physByte_storeByte hram, if_neg (by simpa using hx)]

end Sys2Proof.Machine
end

section
/-! SUPPORT. The two directions of the round trip: every word pair that decodes gives a well-formed instruction, and the
words of a well-formed instruction decode to it (30_encoding.md R104, R110, R111, R116, R117, R122); the fields of what
decodes; the step that executes an instruction. -/

namespace Sys2Proof

/-! ### Well-formedness by form -/

@[simp] theorem wellFormed_mkTwo (op : TwoOp) (rd : Reg) (m : Mode) : (mkTwo op rd m).wellFormed = m.wellFormed := by
  cases op <;> rcases m with (_ | _ | _ | _ | _) | _ | _ | _ <;> rfl

@[simp] theorem wellFormed_mkSt (rd : Reg) (m : MemMode) : (mkSt rd m).wellFormed = (Mode.mem m).wellFormed := by
  cases m <;> rfl

@[simp] theorem wellFormed_mkJump (c : Cond) (t : Target) : (mkJump c t).wellFormed = true := by
  cases c <;> cases t <;> rfl

@[simp] theorem wellFormed_mkCall (t : Target) : (mkCall t).wellFormed = true := by
  cases t <;> rfl

@[simp] theorem wellFormed_mkIn (rd : Reg) (m : PortMode) : (mkIn rd m).wellFormed = true := by
  cases m <;> rfl

@[simp] theorem wellFormed_mkOut (rd : Reg) (m : PortMode) : (mkOut rd m).wellFormed = true := by
  cases m <;> rfl

/-! ### What decodes is well-formed -/

/-- The decoder of the eight modes gives short displacements and short immediates within their ranges only. -/
theorem decodeMode_wellFormed {m : BitVec 3} {rx : BitVec 4} {w2 : Word} {mk : Mode → Instr} {i : Instr}
    (hmk : ∀ md, (mk md).wellFormed = md.wellFormed) (h : decodeMode m rx w2 mk = .ok i) : i.wellFormed = true := by
  unfold decodeMode at h
  split at h
  case h_1 => rw [(fixed_ok h).2, hmk]; rfl
  case h_2 => cases h; rw [hmk]; rfl
  case h_3 => rw [(fixed_ok h).2, hmk]; rfl
  case h_4 => cases h; rw [hmk]; exact dsp4Ok_dsp4OfField rx
  case h_5 => cases h; rw [hmk]; rfl
  case h_6 => cases h; rw [hmk]; exact imm4Ok_imm4OfField rx
  case h_7 => cases h; rw [hmk]; rfl
  case h_8 => cases h; rw [hmk]; rfl

theorem decodeMemMode_wellFormed {m : BitVec 3} {rx : BitVec 4} {w2 : Word} {mk : MemMode → Instr} {i : Instr}
    (hmk : ∀ md, (mk md).wellFormed = (Mode.mem md).wellFormed) (h : decodeMemMode m rx w2 mk = .ok i) :
    i.wellFormed = true := by
  unfold decodeMemMode at h
  split at h
  case h_1 => rw [(fixed_ok h).2, hmk]; rfl
  case h_2 => cases h; rw [hmk]; rfl
  case h_3 => cases h; rw [hmk]; exact dsp4Ok_dsp4OfField rx
  case h_4 => cases h; rw [hmk]; rfl
  case h_5 => cases h; rw [hmk]; rfl
  case h_6 => cases h

theorem wellFormed_bareRow {n : Nat} {m : BitVec 3} {v : BitVec 4} {i : Instr} (h : (n, m, v, i) ∈ bareRows) :
    i.wellFormed = true := by
  have hall : ∀ row ∈ bareRows, row.2.2.2.wellFormed = true := by decide
  exact hall _ h

/-- What any family of rows accepts is well-formed. -/
theorem Family.wellFormed {m : BitVec 3} {rd rx : BitVec 4} {w2 : Word} {n : Nat} {x : Except WordError Instr}
    (h : Family m rd rx w2 n x) {i : Instr} (hx : x = .ok i) : i.wellFormed = true := by
  cases h with
  | two op => exact decodeMode_wellFormed (wellFormed_mkTwo op _) hx
  | st => exact decodeMemMode_wellFormed (wellFormed_mkSt _) hx
  | jump => obtain ⟨c, t, rfl, -, -⟩ := decodeJump_ok hx; exact wellFormed_mkJump c t
  | call => obtain ⟨t, rfl, -, -⟩ := decodeCall_ok hx; exact wellFormed_mkCall t
  | input => obtain ⟨p, rfl, -⟩ := decodePort_ok hx; exact wellFormed_mkIn _ p
  | output => obtain ⟨p, rfl, -⟩ := decodePort_ok hx; exact wellFormed_mkOut _ p
  | push => obtain ⟨-, rfl⟩ := fixed_ok hx; rfl
  | pop => obtain ⟨-, rfl⟩ := fixed_ok hx; rfl
  | bare n v j hrow => obtain ⟨rfl, -, -⟩ := decodeBare_ok hx; exact wellFormed_bareRow hrow
  | undefined => cases hx

theorem wellFormed_of_decodeWords {w1 w2 : Word} {i : Instr} (h : decodeWords w1 w2 = .ok i) : i.wellFormed = true :=
  (decodeWords_family w1 w2).wellFormed h

/-! ### Each part of the decoder reads back a mode from its fields -/

section
variable {m : BitVec 3} {rx : BitVec 4} {w2 : Word}

theorem decodeMode_of_readFrom {md : Mode} (hwf : md.wellFormed = true) (h : md.ReadFrom m rx w2) (mk : Mode → Instr) :
    decodeMode m rx w2 mk = .ok (mk md) := by
  obtain ⟨hnum, rfl, hsecond⟩ := h
  rw [← hnum] at hsecond
  unfold decodeMode
  rw [← hnum]
  rcases md with (dsp | ⟨dsp, r⟩ | d | r | r) | v | r | v
  · cases hsecond; rfl
  · cases hsecond; simp [Mode.number, Mode.field]
  · simp [Mode.number, Mode.field, dsp4OfField_fieldOfDsp4 hwf]
  · simp [Mode.number, Mode.field]
  · simp [Mode.number, Mode.field]
  · cases hsecond; rfl
  · simp [Mode.number, Mode.field]
  · simp [Mode.number, Mode.field, imm4OfField_fieldOfImm4 hwf]

theorem decodeMemMode_of_readFrom {md : MemMode} (hwf : (Mode.mem md).wellFormed = true)
    (h : (Mode.mem md).ReadFrom m rx w2) (mk : MemMode → Instr) : decodeMemMode m rx w2 mk = .ok (mk md) := by
  obtain ⟨hnum, rfl, hsecond⟩ := h
  rw [← hnum] at hsecond
  unfold decodeMemMode
  rw [← hnum]
  cases md with
  | drct dsp => cases hsecond; rfl
  | index dsp r => cases hsecond; simp [Mode.number, Mode.field]
  | fpRlt d => simp [Mode.number, Mode.field, dsp4OfField_fieldOfDsp4 hwf]
  | indr r => simp [Mode.number, Mode.field]
  | bIndr r => simp [Mode.number, Mode.field]

theorem decodeTarget_of_readFrom {t : Target} (h : (Mode.mem (Machine.targetMode t)).ReadFrom m rx w2)
    (mk : Target → Instr) : decodeTarget m rx w2 mk = .ok (mk t) := by
  obtain ⟨hnum, rfl, hsecond⟩ := h
  rw [← hnum] at hsecond
  unfold decodeTarget
  rw [← hnum]
  cases t with
  | drct dsp => cases hsecond; rfl
  | index dsp r => cases hsecond; simp [Machine.targetMode, Mode.number, Mode.field]

theorem decodePort_of_readFrom {p : PortMode} (h : (Mode.mem (Machine.portMemMode p)).ReadFrom m rx w2)
    (mk : PortMode → Instr) : decodePort m rx w2 mk = .ok (mk p) := by
  obtain ⟨hnum, rfl, hsecond⟩ := h
  rw [← hnum] at hsecond
  unfold decodePort
  rw [← hnum]
  cases p with
  | drct dsp => cases hsecond; rfl
  | indr r => simp [Machine.portMemMode, Mode.number, Mode.field]

end

/-! ### The decoder by the number of the family -/

section
variable {w1 : Word} (w2 : Word)

theorem decodeWords_two {op : TwoOp} (h : (opHi (opField w1)).toNat = op.number) :
    decodeWords w1 w2 = decodeMode (opMode (opField w1)) (rxField w1) w2 (mkTwo op (Reg.ofCode (rdField w1))) := by
  unfold decodeWords
  simp only [h]
  cases op <;> rfl

theorem decodeWords_st (h : (opHi (opField w1)).toNat = 0x02) :
    decodeWords w1 w2 = decodeMemMode (opMode (opField w1)) (rxField w1) w2 (mkSt (Reg.ofCode (rdField w1))) := by
  simp only [decodeWords, h]

theorem decodeWords_jump (h : (opHi (opField w1)).toNat = 0x14) :
    decodeWords w1 w2 = decodeJump (opMode (opField w1)) (rdField w1) (rxField w1) w2 := by
  simp only [decodeWords, h]

theorem decodeWords_call (h : (opHi (opField w1)).toNat = 0x15) :
    decodeWords w1 w2 = decodeCall (opMode (opField w1)) (rdField w1) (rxField w1) w2 := by
  simp only [decodeWords, h]

theorem decodeWords_in (h : (opHi (opField w1)).toNat = 0x16) :
    decodeWords w1 w2 = decodePort (opMode (opField w1)) (rxField w1) w2 (mkIn (Reg.ofCode (rdField w1))) := by
  simp only [decodeWords, h]

theorem decodeWords_out (h : (opHi (opField w1)).toNat = 0x17) :
    decodeWords w1 w2 = decodePort (opMode (opField w1)) (rxField w1) w2 (mkOut (Reg.ofCode (rdField w1))) := by
  simp only [decodeWords, h]

end

/-! ### The words of a well-formed instruction decode to it -/

theorem Mode.number_lt (md : Mode) : md.number < 8 := by
  rcases md with (_ | _ | _ | _ | _) | _ | _ | _ <;> simp [Mode.number]

/-- A mode has a second word exactly where OP[2:0] is 0, 1 or 2 (30_encoding.md R116). -/
theorem Mode.second_eq (md : Mode) : md.second = if md.number ≤ 2 then [md.second.headD 0#16] else [] := by
  rcases md with (_ | _ | _ | _ | _) | _ | _ | _ <;> rfl

/-- The words `ws` of an instruction, the second taken as zero where there is none, decode to `i`. -/
def DecodeTo (ws : List Word) (i : Instr) : Prop := decodeWords (ws.headD 0#16) (ws.tail.headD 0#16) = .ok i

/-- The words of a row with addressing modes show the number of the family, Rd and the mode. -/
theorem decodeTo_modeWords {n : Nat} (hn : n < 32) {rd : BitVec 4} {md : Mode} {i : Instr}
    (h : ∀ w1 w2, (opHi (opField w1)).toNat = n → rdField w1 = rd → md.ReadFrom (opMode (opField w1)) (rxField w1) w2 →
      decodeWords w1 w2 = .ok i) : DecodeTo (modeWords n rd md) i := by
  have hlt := md.number_lt
  have hop : (BitVec.ofNat 8 (n * 8 + md.number)).toNat = n * 8 + md.number := Nat.mod_eq_of_lt (by omega)
  have hmode : (opMode (BitVec.ofNat 8 (n * 8 + md.number))).toNat = md.number := by rw [opMode_toNat, hop]; omega
  refine h (packFirst (BitVec.ofNat 8 (n * 8 + md.number)) rd md.field) (md.second.headD 0#16) ?_ (by simp)
    ⟨?_, by simp, ?_⟩
  · rw [opField_packFirst, opHi_toNat, hop]
    omega
  · rw [opField_packFirst, hmode]
  · rw [opField_packFirst, hmode]
    exact md.second_eq

/-- The words of a well-formed instruction decode to it, form by form. -/
theorem decodeTo_encode {i : Instr} (h : i.wellFormed = true) : DecodeTo (encode i) i := by
  cases Machine.instr_forms i with
  | no => rfl
  | two op rd m =>
    rw [wellFormed_mkTwo] at h
    rw [encode_mkTwo]
    refine decodeTo_modeWords (by have := op.number_range; omega) fun w1 w2 hop hrd hread => ?_
    rw [decodeWords_two w2 hop, decodeMode_of_readFrom h hread, hrd, Reg.ofCode_code]
  | st rd m =>
    rw [wellFormed_mkSt] at h
    rw [encode_mkSt]
    refine decodeTo_modeWords (by decide) fun w1 w2 hop hrd hread => ?_
    rw [decodeWords_st w2 hop, decodeMemMode_of_readFrom h hread, hrd, Reg.ofCode_code]
  | jump c t =>
    rw [encode_mkJump]
    refine decodeTo_modeWords (by decide) fun w1 w2 hop hrd hread => ?_
    rw [decodeWords_jump w2 hop, hrd, decodeJump, Cond.ofCode_code]
    exact decodeTarget_of_readFrom hread _
  | call t =>
    rw [encode_mkCall]
    refine decodeTo_modeWords (by decide) fun w1 w2 hop hrd hread => ?_
    rw [decodeWords_call w2 hop, hrd, decodeCall, decodeTarget_of_readFrom hread]
    rfl
  | input rd p =>
    rw [encode_mkIn]
    refine decodeTo_modeWords (by decide) fun w1 w2 hop hrd hread => ?_
    rw [decodeWords_in w2 hop, decodePort_of_readFrom hread, hrd, Reg.ofCode_code]
  | output rd p =>
    rw [encode_mkOut]
    refine decodeTo_modeWords (by decide) fun w1 w2 hop hrd hread => ?_
    rw [decodeWords_out w2 hop, decodePort_of_readFrom hread, hrd, Reg.ofCode_code]
  | push rd => simp [DecodeTo, encode, enc1, decodeWords, opHi, opMode, fixed]
  | pop rd => simp [DecodeTo, encode, enc1, decodeWords, opHi, opMode, fixed]
  | ret => rfl
  | reti => rfl
  | svc => rfl
  | halt => rfl

/-! ### Streams of bytes -/

/-- Where two words decode, so do their bytes, and the second word is zero where the first has none. -/
theorem decode_of_decodeWords {w1 w2 : Word} {i : Instr} (h : decodeWords w1 w2 = .ok i)
    (hw2 : hasSecondWord w1 = false → w2 = 0#16) (rest : List Byte) :
    decode (encodeBytes i ++ rest) = .ok (i, rest) := by
  have henc := encode_of_decodeWords h
  cases hs : hasSecondWord w1 with
  | true => simp [encodeBytes, henc, hs, decode, Machine.bytesToWord_hi_lo, h]
  | false =>
    rw [hw2 hs] at h
    simp [encodeBytes, henc, hs, decode, Machine.bytesToWord_hi_lo, h]

/-- What a stream of four bytes decodes to is what its words decode to, the second taken as zero where there is none. -/
theorem decodeWords_of_decode {b0 b1 b2 b3 : Byte} {i : Instr} {rest : List Byte}
    (h : decode [b0, b1, b2, b3] = .ok (i, rest)) :
    decodeWords (bytesToWord b0 b1) (if hasSecondWord (bytesToWord b0 b1) then bytesToWord b2 b3 else 0#16) = .ok i := by
  cases hs : hasSecondWord (bytesToWord b0 b1)
  all_goals
    simp only [decode, hs] at h
    split at h
    · next j hj => cases h; exact hj
    · cases h

/-! ### The fields of what decodes -/

/-- An instruction of a row with addressing modes has its mode's field in bits 3:0 of the first word, and its displacement
or immediate is the second word. -/
theorem fields_of_decodeWords {w1 w2 : Word} {i : Instr} {n : Nat} {rd : BitVec 4} {m : Mode}
    (h : decodeWords w1 w2 = .ok i) (henc : encode i = modeWords n rd m) :
    m.field = rxField w1 ∧ ∀ v ∈ m.second, v = w2 := by
  rw [encode_of_decodeWords h, modeWords] at henc
  split at henc
  · obtain ⟨rfl, hsecond⟩ := List.cons.inj henc
    exact ⟨by simp, by simp [← hsecond]⟩
  · obtain ⟨rfl, hsecond⟩ := List.cons.inj henc
    exact ⟨by simp, by simp [← hsecond]⟩

theorem second_of_decodeWords {w1 w2 v : Word} {i : Instr} {n : Nat} {rd : BitVec 4} {m : Mode}
    (h : decodeWords w1 w2 = .ok i) (henc : encode i = modeWords n rd m) (hm : m.second = [v]) : v = w2 :=
  (fields_of_decodeWords h henc).2 v (by simp [hm])

/-- Dsp4 is D4 times 2, where the mode is FP Rlt (30_encoding.md R110). -/
theorem dsp4_of_decodeWords {w1 w2 : Word} {i : Instr} {n : Nat} {rd : BitVec 4} {d : Int}
    (h : decodeWords w1 w2 = .ok i) (henc : encode i = modeWords n rd (.mem (.fpRlt d)))
    (hwf : i.wellFormed = dsp4Ok d) : d = dsp4OfField (rxField w1) := by
  obtain ⟨hfield, -⟩ := fields_of_decodeWords h henc
  rw [← hfield]
  exact (dsp4OfField_fieldOfDsp4 (hwf.symm.trans (wellFormed_of_decodeWords h))).symm

/-- Imm4 is I4 sign-extended (30_encoding.md R111). -/
theorem imm4_of_decodeWords {w1 w2 : Word} {op : TwoOp} {rd : Reg} {v : Int}
    (h : decodeWords w1 w2 = .ok (mkTwo op rd (.imm4 v))) : v = imm4OfField (rxField w1) := by
  obtain ⟨hfield, -⟩ := fields_of_decodeWords h (encode_mkTwo op rd _)
  have hwf : imm4Ok v = true := (wellFormed_mkTwo op rd (.imm4 v)).symm.trans (wellFormed_of_decodeWords h)
  rw [← hfield]
  exact (imm4OfField_fieldOfImm4 hwf).symm

/-- D4 and I4 are from -8 to +7 (30_encoding.md R110, R111). -/
theorem toInt_range_four (x : BitVec 4) : x.toInt ≤ 7 ∧ -8 ≤ x.toInt := by
  revert x; decide

/-- The byte offset as a word is the sign-extended D4 times 2, modulo 2^16 (30_encoding.md R110). -/
theorem ofInt_dsp4OfField (x : BitVec 4) : BitVec.ofInt 16 (dsp4OfField x) = x.signExtend 16 * 2#16 := by
  revert x; decide

/-- The operand of an I4 is its sign extension to 16 bits (30_encoding.md R111). -/
theorem ofInt_imm4OfField (x : BitVec 4) : BitVec.ofInt 16 (imm4OfField x) = x.signExtend 16 := by
  revert x; decide

/-! ### The jumps -/

/-- Opcodes A0h and A1h are the jumps', with the condition in Rd (30_encoding.md R124). -/
theorem decodeWords_jumpOpcode {op : BitVec 8} (hop : op = 0xA0#8 ∨ op = 0xA1#8) (cc rx : BitVec 4) (w2 : Word) :
    decodeWords (packFirst op cc rx) w2 = decodeJump (opMode op) cc rx w2 := by
  have hhi : (opHi (opField (packFirst op cc rx))).toNat = 0x14 := by
    rw [opField_packFirst]
    rcases hop with rfl | rfl <;> rfl
  rw [decodeWords_jump w2 hhi, opField_packFirst, rdField_packFirst, rxField_packFirst]

theorem decodeWords_jumpDrct (c : Cond) (w2 : Word) :
    decodeWords (packFirst 0xA0#8 c.code 0#4) w2 = .ok (mkJump c (.drct w2)) := by
  rw [decodeWords_jumpOpcode (.inl rfl), decodeJump, Cond.ofCode_code]
  rfl

theorem decodeWords_jumpIndex (c : Cond) (rx : BitVec 4) (w2 : Word) :
    decodeWords (packFirst 0xA1#8 c.code rx) w2 = .ok (mkJump c (.index w2 (Reg.ofCode rx))) := by
  rw [decodeWords_jumpOpcode (.inr rfl), decodeJump, Cond.ofCode_code]
  rfl

/-- Condition code Dh is blank under both opcodes of the jumps (30_encoding.md R123 (i), R124). -/
theorem decodeWords_jumpBlank {op : BitVec 8} (hop : op = 0xA0#8 ∨ op = 0xA1#8) (rx : BitVec 4) (w2 : Word) (i : Instr) :
    decodeWords (packFirst op 0xD#4 rx) w2 ≠ .ok i := by
  rw [decodeWords_jumpOpcode hop, decodeJump, Cond.ofCode_eq_none.mpr rfl]
  exact nofun

end Sys2Proof

namespace Sys2Proof.Machine

/-! ### The step that executes an instruction -/

theorem fetch_eq {s : State} {i : Instr} (h : WordReadable s s.pc)
    (hd : decodeWords (physWord s s.pc) (secondWord s) = .ok i) : fetch s = .ok i := by
  simp [fetch, fetchWords_eq h, hd]

theorem secondWord_passBoundary (s : State) : secondWord (passBoundary s) = secondWord s := by
  have hpc : (passBoundary s).pc = s.pc := rfl
  simp only [secondWord, hpc, physWord_passBoundary]

/-- Where no interrupt is taken, a step is the instruction fetched (30_encoding.md R119). -/
theorem step_of_fetch {s : State} {i : Instr} (hh : s.halted = false) (hm : s.mmuEnable = false)
    (hi : interruptTaken s = none) (hf : fetch (passBoundary s) = .ok i) : step s = exec i (passBoundary s) := by
  simp [step, hh, hm, hi, hf]

/-- The words at PC decode to what the four bytes there decode to. -/
theorem decodeWords_at_pc {s : State} {i : Instr} {rest : List Byte}
    (h : decode [physByte s s.pc, physByte s (s.pc + 1#16), physByte s (s.pc + 2#16), physByte s (s.pc + 3#16)] =
      .ok (i, rest)) : decodeWords (physWord s s.pc) (secondWord s) = .ok i := by
  have hlast : s.pc + 3#16 = s.pc + 2#16 + 1#16 := by bv_omega
  rw [hlast] at h
  exact decodeWords_of_decode h

end Sys2Proof.Machine
end

section
/-! CERTIFICATES. The statements about the encoding and the step. -/

namespace Sys2Proof.Machine

/-- Settles O1: the words of the instruction decode to it, so its bytes do. -/
theorem decodeAfterEncodeGivesInstruction : Obligations.DecodeAfterEncodeGivesInstruction := by
  intro i rest hwf
  have h : decodeWords _ _ = .ok i := decodeTo_encode hwf
  refine decode_of_decodeWords h (fun hs => ?_) rest
  have hone := encode_of_decodeWords h
  rw [hs] at hone
  rw [hone]
  rfl

/-- Settles O2: every family of rows accepts well-formed instructions only, each from its own words. -/
theorem encodeAfterDecodeGivesWords : Obligations.EncodeAfterDecodeGivesWords :=
  fun _ _ _ h => ⟨wellFormed_of_decodeWords h, encode_of_decodeWords h⟩

/-- Settles O3, by what the decoder rejects. -/
theorem undefinedFirstWordsAreIllegal : Obligations.UndefinedFirstWordsAreIllegal := by
  intro w1 w2
  simp [decodeWords_error_iff]

/-- Settles O4, by what the decoder rejects. -/
theorem wrongFixedFieldsAreRefused : Obligations.WrongFixedFieldsAreRefused := by
  intro w1 w2
  simp [decodeWords_error_iff]

/-- Settles O6: Dsp4 is that of the field, and the field has sixteen values. -/
theorem shortDisplacementIsTwiceD4 : Obligations.ShortDisplacementIsTwiceD4 := by
  intro s w1 w2 rd dsp4 h
  have hdsp4 : dsp4 = dsp4OfField (rxField w1) := by
    rcases h with ⟨op, h⟩ | h
    · exact dsp4_of_decodeWords h (encode_mkTwo op rd _) (wellFormed_mkTwo op rd _)
    · exact dsp4_of_decodeWords h (encode_mkSt rd _) (wellFormed_mkSt rd _)
  obtain ⟨hle, hge⟩ := toInt_range_four (rxField w1)
  have heff : effAddr s (.fpRlt dsp4) = (rxField w1).signExtend 16 * 2#16 + s.fp := by
    rw [effAddr, hdsp4, ofInt_dsp4OfField]
  have htwice : dsp4 = (rxField w1).toInt * 2 := hdsp4
  exact ⟨hle, hge, htwice, by omega, by omega, by omega, heff⟩

/-- Settles O7: I4 is the field of the mode, Imm and Dsp its second word. -/
theorem immediatesAreTheirFields : Obligations.ImmediatesAreTheirFields := by
  refine fun s w1 w2 => ⟨fun op rd v h => ?_, fun op rd v h => ?_, ?_, ?_⟩
  · have hv : v = imm4OfField (rxField w1) := imm4_of_decodeWords h
    obtain ⟨hle, hge⟩ := toInt_range_four (rxField w1)
    have hoperand : operand s (.imm4 v) = .ok ((rxField w1).signExtend 16) := by
      rw [← ofInt_imm4OfField, ← hv]
      rfl
    exact ⟨hle, hge, hv, hoperand⟩
  · obtain rfl : v = w2 := second_of_decodeWords h (encode_mkTwo op rd _) rfl
    exact ⟨rfl, rfl⟩
  · rintro dsp ⟨i, h, ⟨op, rd, rfl⟩ | ⟨rd, rfl⟩ | ⟨c, rfl⟩ | rfl | ⟨rd, rfl⟩ | ⟨rd, rfl⟩⟩
    · exact second_of_decodeWords h (encode_mkTwo op rd _) rfl
    · exact second_of_decodeWords h (encode_mkSt rd _) rfl
    · exact second_of_decodeWords h (encode_mkJump c _) rfl
    · exact second_of_decodeWords h (encode_mkCall _) rfl
    · exact second_of_decodeWords h (encode_mkIn rd _) rfl
    · exact second_of_decodeWords h (encode_mkOut rd _) rfl
  · rintro dsp rx ⟨i, h, ⟨op, rd, rfl⟩ | ⟨rd, rfl⟩ | ⟨c, rfl⟩ | rfl⟩
    · exact second_of_decodeWords h (encode_mkTwo op rd _) rfl
    · exact second_of_decodeWords h (encode_mkSt rd _) rfl
    · exact second_of_decodeWords h (encode_mkJump c _) rfl
    · exact second_of_decodeWords h (encode_mkCall _) rfl

/-- Settles O5: each condition under its code, in both modes, and the blank code. -/
theorem jumpConditionIsRdField : Obligations.JumpConditionIsRdField := by
  intro w2 rx
  have hcond (c : Cond) := And.intro (decodeWords_jumpDrct c w2) (decodeWords_jumpIndex c rx w2)
  exact ⟨hcond .jz, hcond .jc, hcond .jm, hcond .jo, hcond .jgt, hcond .jge, hcond .jle, hcond .jlt, hcond .jnz,
    hcond .jnc, hcond .jnm, hcond .jno, hcond .jhi, hcond .jls, hcond .jmp,
    decodeWords_jumpBlank (.inl rfl) 0#4 w2, decodeWords_jumpBlank (.inr rfl) rx w2⟩

/-- Settles O8: the decoder evaluated on each word. -/
theorem sampleWordsDecode : Obligations.SampleWordsDecode :=
  ⟨rfl, rfl, rfl, rfl, rfl, rfl, rfl, rfl, rfl, rfl, rfl⟩

/-- Settles O9: the fetch reads the words that the bytes at PC make, and the decoder's answer for them is `i`. -/
theorem stepRunsDecodedInstruction : Obligations.StepRunsDecodedInstruction := by
  intro s i rest hh hm heven hq hdecode
  have hread : WordReadable (passBoundary s) (passBoundary s).pc := ⟨hm, heven⟩
  have hwords : decodeWords (physWord (passBoundary s) (passBoundary s).pc) (secondWord (passBoundary s)) = .ok i := by
    rw [physWord_passBoundary, secondWord_passBoundary]
    exact decodeWords_at_pc hdecode
  exact step_of_fetch hh hm (interruptTaken_eq_none hq) (fetch_eq hread hwords)

end Sys2Proof.Machine
end

section
/-! SUPPORT. What LD and ST do, in the words of the statements: each completes, changes its destination, and leaves the rest
as it was. -/

namespace Sys2Proof.Machine

/-! ### LD -/

/-- WriteFLAG, bit by bit in each privilege mode (10_state.md R32). -/
theorem Flag.write_spec (f : Flag) (v : Word) : FlagWritten f (f.write v) v := by
  cases hp : f.p with
  | true => simp [FlagWritten, Flag.write_privileged hp, Flag.ofWord, hp]
  | false => simp [FlagWritten, Flag.write_user hp, Flag.ofWord, hp]

/-- LD with a readable operand, whatever Rd: the operand in Rd if that is not FLAG, in FLAG by WriteFLAG if it is, and the
rest as it was (40_nop_load_store.md R141). -/
theorem load_spec {s : State} {m : Mode} (hm : OperandReadable s m) (rd : Reg) :
    ∃ t, load s rd m = .next t ∧ (rd ≠ .flag → readReg t rd = operandValue s m) ∧
      t.flag = (if rd = .flag then s.flag.write (operandValue s m) else s.flag) ∧
      SameCellsBut (destCells s.flag.p rd) s t ∧ SameBytesBut [] s t ∧ SameIo s t ∧ SameRun s t ∧ t.draws = s.draws ∧
      t.pc = s.pc + modeBytes m := by
  refine ⟨_, load_eq hm rd, fun hrd => ?_, writeReg_flag s rd _, fun c hc => ?_, fun a ha => ?_, sameIo_writeReg s rd _,
    ⟨writeReg_halted s rd _, writeReg_interrupts s rd _⟩, writeReg_draws s rd _, rfl⟩
  · exact (readReg_congr rfl rfl rfl rfl rfl rd).trans (readReg_writeReg_same hrd _)
  · exact (cellValue_congr rfl rfl rfl rfl c).trans (writeReg_sameCellsBut s rd _ c hc)
  · exact (physByte_congr rfl rfl a).trans (sameBytes_writeReg s rd _ a ha)

/-! ### ST -/

/-- The write of ST changes nothing but memory. -/
theorem stored_eq_withMem (s : State) (m : MemMode) (v : Word) :
    stored s m v = { s with mem := (stored s m v).mem } := by
  cases m <;> rfl

/-- ST with room for its value: memory is that after the write, PC is past the instruction, and the rest is as it was
(40_nop_load_store.md R142). -/
theorem store_spec {s : State} {m : MemMode} (h : Storable s m) (rd : Reg) :
    ∃ t, store s rd m = .next t ∧ (∀ a, physByte t a = physByte (stored s m (readReg s rd)) a) ∧
      SameCellsBut [] s t ∧ t.flag = s.flag ∧ SameIo s t ∧ SameRun s t ∧ t.draws = s.draws ∧
      t.pc = s.pc + memModeBytes m := by
  refine ⟨_, store_eq h, fun a => physByte_congr rfl rfl a, ?_⟩
  rw [stored_eq_withMem]
  exact ⟨fun c _ => cellValue_congr rfl rfl rfl rfl c, rfl, sameIo_refl s, ⟨rfl, rfl⟩, rfl, rfl⟩

theorem storable_word {s : State} {m : MemMode} (hm : ∀ rx, m ≠ .bIndr rx) (h : WordWritable s (effAddr s m)) :
    Storable s m := by
  cases m with
  | bIndr rx => exact absurd rfl (hm rx)
  | drct _ | index _ _ | fpRlt _ | indr _ => exact h

theorem stored_word {m : MemMode} (hm : ∀ rx, m ≠ .bIndr rx) (s : State) (v : Word) :
    stored s m v = storeWord s (effAddr s m) v := by
  cases m with
  | bIndr rx => exact absurd rfl (hm rx)
  | drct _ | index _ _ | fpRlt _ | indr _ => rfl

theorem sameBytes_storeByte {s : State} {a : Word} (h : inIplRom s a = false) (b : Byte) :
    SameBytesBut [a] s (storeByte s a b) := by
  intro x hx
  rw [physByte_storeByte h, if_neg (by simpa using hx)]

theorem sameBytes_storeWord {s : State} {a : Word} (h : WordWritable s a) (w : Word) :
    SameBytesBut [a, a + 1#16] s (storeWord s a w) := by
  intro x hx
  obtain ⟨hhi, hlo⟩ : x ≠ a ∧ x ≠ a + 1#16 := by simpa using hx
  rw [physByte_storeWord h, if_neg hhi, if_neg hlo]

/-- The two bytes of a word just written are its high byte and, at the next address, its low byte (20_memory.md R63). -/
theorem bytes_storeWord {s : State} {a : Word} (h : WordWritable s a) (w : Word) :
    physByte (storeWord s a w) a = wordHi w ∧ physByte (storeWord s a w) (a + 1#16) = wordLo w := by
  have hne : a + 1#16 ≠ a := by simp
  simp [physByte_storeWord h, hne]

end Sys2Proof.Machine
end

section
/-! CERTIFICATES. The statements about NO, LD and ST. -/

namespace Sys2Proof.Machine

/-- Settles O19: LD leaves FLAG alone where Rd is another register. -/
theorem loadPutsOperandInRegister : Obligations.LoadPutsOperandInRegister := by
  intro s rd m hrd hm
  obtain ⟨t, hload, hvalue, hflag, hcells, hbytes, hio, hrun, hdraws, hpc⟩ := load_spec hm rd
  rw [if_neg hrd] at hflag
  have hcontrol : SameControlFlags s.flag t.flag := by simp [SameControlFlags, hflag]
  exact ⟨t, (exec_mkTwo .ld rd m s).trans hload, hvalue hrd, hflag, hdraws, hcells, hcontrol, hbytes, hio, hrun, hpc⟩

/-- Settles O20: FLAG is no register cell, and LD writes it by WriteFLAG. -/
theorem loadIntoFlagIsMaskedInUserMode : Obligations.LoadIntoFlagIsMaskedInUserMode := by
  intro s m hm
  obtain ⟨t, hload, -, hflag, hcells, hrest⟩ := load_spec hm .flag
  have hwritten : FlagWritten s.flag t.flag (operandValue s m) := by
    rw [hflag, if_pos rfl]
    exact Flag.write_spec s.flag _
  exact ⟨t, (exec_mkTwo .ld .flag m s).trans hload, hwritten, hcells, hrest⟩

/-- Settles O21: in the word modes the memory after ST is that after a word is written at the effective address. -/
theorem storeWritesWordBigEndian : Obligations.StoreWritesWordBigEndian := by
  intro s rd m hm hw
  obtain ⟨t, hstore, hmem, hframe⟩ := store_spec (storable_word hm hw) rd
  rw [stored_word hm] at hmem
  obtain ⟨hhi, hlo⟩ := bytes_storeWord hw (readReg s rd)
  have hword : physWord t (effAddr s m) = readReg s rd := by
    rw [physWord, hmem, hmem]
    exact physWord_storeWord hw (readReg s rd)
  have hothers : SameBytesBut [effAddr s m, effAddr s m + 1#16] s t :=
    fun a ha => (hmem a).trans (sameBytes_storeWord hw _ a ha)
  exact ⟨t, (exec_mkSt rd m s).trans hstore, (hmem _).trans hhi, (hmem _).trans hlo, hword, hothers, hframe⟩

/-- Settles O22: in mode B Indr the memory after ST is that after a byte is written at the address in Rx. -/
theorem storeByteWritesLowByte : Obligations.StoreByteWritesLowByte := by
  intro s rd rx hb
  obtain ⟨t, hstore, hmem, hframe⟩ := store_spec (m := .bIndr rx) hb rd
  have hbyte : physByte t (readReg s rx) = wordLo (readReg s rd) := by
    rw [hmem]
    exact (physByte_storeByte hb.2 _ _).trans (if_pos rfl)
  have hothers : SameBytesBut [readReg s rx] s t := fun a ha => (hmem a).trans (sameBytes_storeByte hb.2 _ a ha)
  exact ⟨t, (exec_mkSt rd (.bIndr rx) s).trans hstore, hbyte, hothers, hframe⟩

/-- Settles O18: NO is the advance of PC past its one word. -/
theorem noOnlyAdvancesPc : Obligations.NoOnlyAdvancesPc := fun s => exec_no s

end Sys2Proof.Machine
end

section
/-! SUPPORT. What the arithmetic and logic instructions compute: the flags of sums, differences and results with free V and
C, the values in numbers, and what each common form answers. -/

namespace Sys2Proof.Machine

/-! ### The flags of a sum, of a difference and of a result -/

theorem Flag.add_c_iff (f : Flag) (a b : Word) : (f.add a b).c = true ↔ 65536 ≤ a.toNat + b.toNat := by
  simp [Flag.add]

/-- The sign rule of V for a sum is the signed overflow (10_state.md R34, log 29). -/
theorem Flag.add_v_eq (f : Flag) (a b : Word) : (f.add a b).v = a.saddOverflow b := by
  simp only [Flag.add, BitVec.saddOverflow_eq, BitVec.msb_eq_getLsbD_last]
  rfl

theorem Flag.add_v_iff (f : Flag) (a b : Word) :
    (f.add a b).v = true ↔ a.toInt + b.toInt < -32768 ∨ 32767 < a.toInt + b.toInt := by
  simp only [Flag.add_v_eq, BitVec.saddOverflow, Bool.or_eq_true, decide_eq_true_eq]
  omega

theorem Flag.add_signZero (f : Flag) (a b : Word) : SignZeroOf (f.add a b) (a + b) := setZS_spec f (a + b)

theorem Flag.add_control (f : Flag) (a b : Word) : SameControlFlags f (f.add a b) := ⟨rfl, rfl, rfl, rfl⟩

theorem Flag.sub_c_iff (f : Flag) (a b : Word) : (f.sub a b).c = true ↔ a.toNat < b.toNat := by
  simp [Flag.sub]

/-- The sign rule of V for a difference is the signed overflow (10_state.md R34, log 29). -/
theorem Flag.sub_v_eq (f : Flag) (a b : Word) : (f.sub a b).v = a.ssubOverflow b := by
  simp only [Flag.sub, BitVec.ssubOverflow_eq, BitVec.msb_eq_getLsbD_last]
  cases a.getLsbD 15 <;> cases b.getLsbD 15 <;> simp

theorem Flag.sub_v_iff (f : Flag) (a b : Word) :
    (f.sub a b).v = true ↔ a.toInt - b.toInt < -32768 ∨ 32767 < a.toInt - b.toInt := by
  simp only [Flag.sub_v_eq, BitVec.ssubOverflow, Bool.or_eq_true, decide_eq_true_eq]
  omega

theorem Flag.sub_signZero (f : Flag) (a b : Word) : SignZeroOf (f.sub a b) (a - b) := setZS_spec f (a - b)

theorem Flag.sub_control (f : Flag) (a b : Word) : SameControlFlags f (f.sub a b) := ⟨rfl, rfl, rfl, rfl⟩

theorem Flag.logic_signZero (f : Flag) (draw : Nat) (r : Word) : SignZeroOf (f.logic draw r) r := setZS_spec f r

theorem Flag.logic_control (f : Flag) (draw : Nat) (r : Word) : SameControlFlags f (f.logic draw r) :=
  ⟨rfl, rfl, rfl, rfl⟩

/-! ### The values in numbers -/

/-- The difference modulo 2^16, as an integer (41_arithmetic_logic.md R152). -/
theorem toNat_difference (a b : Word) : ((a - b).toNat : Int) = ((a.toNat : Int) - b.toNat) % 65536 := by
  have ha := a.isLt
  have hb := b.isLt
  rw [BitVec.toNat_sub]
  omega

/-- The low half of the product does not depend on the reading of the factors (41_arithmetic_logic.md R158, log 7). -/
theorem mul_eq_ofInt_toInt_mul (a b : Word) : a * b = BitVec.ofInt 16 (a.toInt * b.toInt) := by
  rw [BitVec.ofInt_mul, BitVec.ofInt_toInt, BitVec.ofInt_toInt]

theorem divisionAgrees_iff (a b : Word) : divisionAgrees a b = true ↔ a.toNat ≤ 0x7FFF ∧ b.toNat ≤ 0x7FFF := by
  simp [divisionAgrees]

theorem quotientValue_toNat {a b : Word} (h : divisionAgrees a b = true) :
    (quotientValue a b).toNat = a.toNat / b.toNat := by
  rw [quotientValue, if_pos h, BitVec.toNat_ofNat]
  exact Nat.mod_eq_of_lt ((Nat.div_le_self _ _).trans_lt a.isLt)

theorem remainderValue_toNat {a b : Word} (h : divisionAgrees a b = true) :
    (remainderValue a b).toNat = a.toNat % b.toNat := by
  rw [remainderValue, if_pos h, BitVec.toNat_ofNat]
  exact Nat.mod_eq_of_lt ((Nat.mod_le _ _).trans_lt a.isLt)

/-- Where both operands are at most 7FFFh, quotient and remainder are those of the division with remainder; elsewhere they
are the open pair DIVMOD (41_arithmetic_logic.md R159, R160, log 7). -/
theorem quotientValue_remainderValue {a b : Word} (hb : b ≠ 0#16) :
    if a.toNat ≤ 0x7FFF ∧ b.toNat ≤ 0x7FFF then
      a.toNat = (quotientValue a b).toNat * b.toNat + (remainderValue a b).toNat ∧
        (remainderValue a b).toNat < b.toNat
    else (quotientValue a b, remainderValue a b) = Config.divmod a b := by
  have hpos : 0 < b.toNat := Nat.pos_of_ne_zero (BitVec.toNat_ne.mp hb)
  split
  case isTrue h =>
    have hagree := (divisionAgrees_iff a b).mpr h
    rw [quotientValue_toNat hagree, remainderValue_toNat hagree]
    exact ⟨(Nat.div_add_mod' _ _).symm, Nat.mod_lt _ hpos⟩
  case isFalse h =>
    have hopen := mt (divisionAgrees_iff a b).mp h
    rw [quotientValue, remainderValue, if_neg hopen, if_neg hopen]

theorem quotient_eq {b : Word} (hb : b ≠ 0#16) (s : State) (a : Word) :
    quotient s a b = .ok (withFreeVC s (quotientValue a b)) := if_neg hb

theorem remainder_eq {b : Word} (hb : b ≠ 0#16) (s : State) (a : Word) :
    remainder s a b = .ok (withFreeVC s (remainderValue a b)) := if_neg hb

theorem quotient_zero (s : State) (a : Word) : quotient s a 0#16 = .error (.fault (.zeroDivide s.pc)) := if_pos rfl

theorem remainder_zero (s : State) (a : Word) : remainder s a 0#16 = .error (.fault (.zeroDivide s.pc)) := if_pos rfl

/-! ### What the common forms answer -/

/-- An instruction with V and C free: its result in Rd, S and Z of it, and the rest as it was (41_arithmetic_logic.md R154,
log 6). -/
theorem freeVC_spec {s : State} {rd : Reg} {m : Mode} {compute : State → Word → Word → Access AluResult} {r : Word}
    (hrd : rd ≠ .flag) (hm : OperandReadable s m)
    (hr : compute s (readReg s rd) (operandValue s m) = .ok (withFreeVC s r)) :
    ∃ t, twoOperand s rd m compute = .next t ∧ readReg t rd = r ∧ SignZeroOf t.flag (readReg t rd) ∧
      TwoOperandFrame s t rd m := by
  obtain ⟨t, hnext, hvalue, hflag, -, hframe⟩ := twoOperand_spec hrd hm hr (Flag.logic_control s.flag s.draws r)
  have hsz : SignZeroOf t.flag (readReg t rd) := by
    rw [hflag, hvalue]
    exact Flag.logic_signZero s.flag s.draws r
  exact ⟨t, hnext, hvalue, hsz, hframe⟩

/-- AND, OR and XOR are the common form with V and C free, for a result that combines the operands bit by bit. -/
theorem twoMeaning_bitwise {op : TwoOp} {f : Bool → Bool → Bool}
    (h : (op = .and ∧ f = and) ∨ (op = .or ∧ f = or) ∨ (op = .xor ∧ f = xor)) (s : State) (rd : Reg) (m : Mode) :
    ∃ r : Word → Word → Word,
      twoMeaning s rd m op = twoOperand s rd m (fun s a b => .ok (withFreeVC s (r a b))) ∧
        ∀ a b k, (r a b).getLsbD k = f (a.getLsbD k) (b.getLsbD k) := by
  rcases h with ⟨rfl, rfl⟩ | ⟨rfl, rfl⟩ | ⟨rfl, rfl⟩
  · exact ⟨(· &&& ·), rfl, fun _ _ _ => BitVec.getLsbD_and⟩
  · exact ⟨(· ||| ·), rfl, fun _ _ _ => BitVec.getLsbD_or⟩
  · exact ⟨(· ^^^ ·), rfl, fun _ _ _ => BitVec.getLsbD_xor⟩

/-- A flag-changing instruction whose computation stops answers that stop. -/
theorem twoOperand_of_compute_error {s : State} {rd : Reg} {m : Mode}
    {compute : State → Word → Word → Access AluResult} {e : Stop} (hrd : rd ≠ .flag) (hm : OperandReadable s m)
    (he : compute s (readReg s rd) (operandValue s m) = .error e) : twoOperand s rd m compute = finish (.error e) := by
  simp [twoOperand, hrd, operand_eq hm, he]

theorem twoOperand_flag (s : State) (m : Mode) (compute : State → Word → Word → Access AluResult) :
    twoOperand s .flag m compute = .refused .flagDestination := if_pos rfl

/-- CMP with a readable operand completes: FLAG and PC are all it writes. -/
theorem compare_eq {s : State} {m : Mode} (hm : OperandReadable s m) (rd : Reg) :
    compare s rd m =
      .next { s with flag := s.flag.sub (readReg s rd) (operandValue s m), pc := s.pc + modeBytes m } := by
  simp only [compare, operand_eq hm]

theorem namesStackPointer_iff (s : State) (rd : Reg) :
    namesStackPointer s rd = true ↔ rd = .sp ∨ (rd = .usp ∧ s.flag.p = false) := by
  cases rd <;> simp [namesStackPointer]

theorem pushRegister_refused {s : State} {rd : Reg} (h : namesStackPointer s rd = true) :
    pushRegister s rd = .refused .stackPointerOperand := if_pos h

theorem popRegister_refused {s : State} {rd : Reg} (h : namesStackPointer s rd = true) :
    popRegister s rd = .refused .stackPointerOperand := if_pos h

end Sys2Proof.Machine
end

section
/-! CERTIFICATES. The statements about the arithmetic and logic instructions. -/

namespace Sys2Proof.Machine

/-- Settles O24: the sum is that of `BitVec`, and V by its sign rule the signed overflow of the sum. -/
theorem addSetsSumAndFlags : Obligations.AddSetsSumAndFlags := by
  intro s rd m hrd hm
  obtain ⟨t, hnext, hvalue, hflag, hdraws, hframe⟩ :=
    twoOperand_spec (compute := sum) hrd hm rfl (Flag.add_control s.flag (readReg s rd) (operandValue s m))
  refine ⟨t, (exec_mkTwo .add rd m s).trans hnext, ?_, ?_, hdraws, hframe⟩ <;> rw [hflag, hvalue]
  · exact ⟨BitVec.toNat_add _ _, Flag.add_c_iff _ _ _, Flag.add_v_iff _ _ _⟩
  · exact Flag.add_signZero _ _ _

/-- Settles O25: as for ADD, with the difference and its borrow. -/
theorem subtractSetsDifferenceAndFlags : Obligations.SubtractSetsDifferenceAndFlags := by
  intro s rd m hrd hm
  obtain ⟨t, hnext, hvalue, hflag, hdraws, hframe⟩ :=
    twoOperand_spec (compute := difference) hrd hm rfl (Flag.sub_control s.flag (readReg s rd) (operandValue s m))
  refine ⟨t, (exec_mkTwo .sub rd m s).trans hnext, ?_, ?_, hdraws, hframe⟩ <;> rw [hflag, hvalue]
  · exact ⟨toNat_difference _ _, Flag.sub_c_iff _ _ _, Flag.sub_v_iff _ _ _⟩
  · exact Flag.sub_signZero _ _ _

/-- Settles O26: CMP computes the flags of SUB, and writes FLAG and PC alone. -/
theorem compareSetsFlagsOnly : Obligations.CompareSetsFlagsOnly := by
  intro s rd m hm
  exact ⟨_, (exec_mkTwo .cmp rd m s).trans (compare_eq hm rd),
    ⟨Flag.sub_c_iff _ _ _, Flag.sub_v_iff _ _ _, Flag.sub_signZero _ _ _⟩,
    fun c _ => cellValue_congr rfl rfl rfl rfl c, Flag.sub_control _ _ _, fun a _ => physByte_congr rfl rfl a,
    sameIo_refl s, ⟨rfl, rfl⟩, rfl, rfl⟩

/-- Settles O27: the three instructions differ in the function of two bits alone. -/
theorem logicWorksBitByBit : Obligations.LogicWorksBitByBit := by
  intro op f hop s rd m hrd hm
  obtain ⟨r, hmeaning, hbits⟩ := twoMeaning_bitwise hop s rd m
  obtain ⟨t, hnext, hvalue, hsz, hframe⟩ :=
    freeVC_spec (compute := fun s a b => .ok (withFreeVC s (r a b))) hrd hm rfl
  have hexec : exec (mkTwo op rd m) s = .next t := (exec_mkTwo op rd m s).trans (hmeaning.trans hnext)
  exact ⟨t, hexec, fun k _ => hvalue ▸ hbits _ _ k, hsz, hframe⟩

/-- Settles O28: doubling the operand modulo 2^16 before the sum changes nothing modulo 2^16. -/
theorem addScaledDoublesOperand : Obligations.AddScaledDoublesOperand := by
  intro s rd m hrd hm
  obtain ⟨t, hnext, hvalue, hsz, hframe⟩ := freeVC_spec (compute := scaledSum) hrd hm rfl
  have hsum : (readReg t rd).toNat = ((readReg s rd).toNat + 2 * (operandValue s m).toNat) % 65536 := by
    rw [hvalue, BitVec.toNat_add, BitVec.toNat_mul]
    exact Nat.add_mod_mod _ _ _
  exact ⟨t, (exec_mkTwo .adds rd m s).trans hnext, hsum, hsz, hframe⟩

/-- Settles O29: the product of words is that of their unsigned and of their signed readings modulo 2^16. -/
theorem multiplyKeepsLowHalf : Obligations.MultiplyKeepsLowHalf := by
  intro s rd m hrd hm
  obtain ⟨t, hnext, hvalue, hsz, hframe⟩ := freeVC_spec (compute := product) hrd hm rfl
  have hunsigned : (readReg t rd).toNat = (readReg s rd).toNat * (operandValue s m).toNat % 65536 := by
    rw [hvalue, BitVec.toNat_mul]
  exact ⟨t, (exec_mkTwo .mul rd m s).trans hnext, hunsigned, hvalue.trans (mul_eq_ofInt_toInt_mul _ _), hsz, hframe⟩

/-- Settles O30: DIV keeps the quotient and MOD the remainder of one division. -/
theorem divideAndModuloAgree : Obligations.DivideAndModuloAgree := by
  intro s rd m hrd hm hb
  obtain ⟨t, hdiv, hquotient, htsz, htframe⟩ := freeVC_spec hrd hm (quotient_eq hb s _)
  obtain ⟨u, hmod, hremainder, husz, huframe⟩ := freeVC_spec hrd hm (remainder_eq hb s _)
  refine ⟨t, u, (exec_mkTwo .div rd m s).trans hdiv, (exec_mkTwo .mod rd m s).trans hmod, ?_, htsz, husz, htframe,
    huframe⟩
  rw [hquotient, hremainder]
  exact quotientValue_remainderValue hb

/-- Settles O31: the operand is read, and the computation of its quotient or remainder is the fault. -/
theorem divisionByZeroFaults : Obligations.DivisionByZeroFaults := by
  intro s op rd m hop hrd hm hb
  rw [exec_mkTwo]
  rcases hop with rfl | rfl
  · exact twoOperand_of_compute_error hrd hm (hb ▸ quotient_zero s _)
  · exact twoOperand_of_compute_error hrd hm (hb ▸ remainder_zero s _)

/-- Settles O34: both refusals come before any operand is read. -/
theorem ambiguousDestinationsAreRefused : Obligations.AmbiguousDestinationsAreRefused := by
  intro s
  constructor
  · intro op m hld hcmp
    obtain ⟨compute, hform⟩ := twoMeaning_eq_twoOperand hld hcmp s .flag m
    rw [exec_mkTwo, hform, twoOperand_flag]
  · intro rd hrd
    have hsp := (namesStackPointer_iff s rd).mpr hrd
    exact ⟨pushRegister_refused hsp, popRegister_refused hsp⟩

end Sys2Proof.Machine
end

section
/-! SUPPORT. What the shifts compute: FLAG after a short and after a long shift, the three functions in numbers, and what a
shift by fewer than 16 places and one by more answers. -/

namespace Sys2Proof.Machine

/-! ### The flags of a shift -/

theorem Flag.shift_c_one (f : Flag) (draw : Nat) (out : Bool) (r : Word) : (f.shift draw 1 out r).c = out := rfl

theorem Flag.shift_signZero (f : Flag) (draw n : Nat) (out : Bool) (r : Word) : SignZeroOf (f.shift draw n out r) r :=
  setZS_spec f r

theorem Flag.shift_control (f : Flag) (draw n : Nat) (out : Bool) (r : Word) :
    SameControlFlags f (f.shift draw n out r) := ⟨rfl, rfl, rfl, rfl⟩

theorem Flag.shiftBig_control (f : Flag) (draw : Nat) : SameControlFlags f (f.shiftBig draw) := ⟨rfl, rfl, rfl, rfl⟩

/-! ### The three functions in numbers -/

theorem shiftedLeft_toNat (a : Word) (n : Nat) : (shiftedLeft a n).toNat = a.toNat * 2 ^ n % 65536 := by
  rw [shiftedLeft, BitVec.toNat_shiftLeft, Nat.shiftLeft_eq]

/-- The division of integers rounds down for a positive divisor, so the shift of a negative number does (42_shift.md R173). -/
theorem shiftedRightArithmetic_toInt (a : Word) (n : Nat) : (shiftedRightArithmetic a n).toInt = a.toInt / 2 ^ n := by
  rw [shiftedRightArithmetic, BitVec.toInt_sshiftRight, Int.shiftRight_eq_div_pow, Nat.cast_pow, Nat.cast_ofNat]

theorem shiftedRightLogical_toNat (a : Word) (n : Nat) : (shiftedRightLogical a n).toNat = a.toNat / 2 ^ n := by
  rw [shiftedRightLogical, BitVec.toNat_ushiftRight, Nat.shiftRight_eq_div_pow]

/-! ### What the common form answers -/

section
variable {r : Word → Nat → Word} {out : Word → Bool} {s : State}

theorem shift_of_lt {b : Word} (hb : b.toNat < 16) (a : Word) :
    shift r out s a b = .ok ⟨r a b.toNat, s.flag.shift s.draws b.toNat (out a) (r a b.toNat), 1⟩ := by
  simp only [shift, if_neg (Nat.not_le.mpr hb)]

theorem shift_of_ge {b : Word} (hb : 16 ≤ b.toNat) (a : Word) :
    shift r out s a b = .ok ⟨Config.shiftBig s.draws, s.flag.shiftBig s.draws, 1⟩ := by
  simp only [shift, if_pos hb]

variable {rd : Reg} {m : Mode}

/-- A shift by fewer than 16 places: its result in Rd, C the bit moved out if the count is 1, S and Z of the result, and the
rest as it was (42_shift.md R170, log 30). -/
theorem shortShift_spec (hrd : rd ≠ .flag) (hm : OperandReadable s m) (hn : (operandValue s m).toNat < 16) :
    ∃ t, twoOperand s rd m (shift r out) = .next t ∧ readReg t rd = r (readReg s rd) (operandValue s m).toNat ∧
      ((operandValue s m).toNat = 1 → t.flag.c = out (readReg s rd)) ∧ SignZeroOf t.flag (readReg t rd) ∧
      TwoOperandFrame s t rd m := by
  obtain ⟨t, hnext, hvalue, hflag, -, hframe⟩ :=
    twoOperand_spec hrd hm (shift_of_lt hn _) (Flag.shift_control _ _ _ _ _)
  have hcarry : (operandValue s m).toNat = 1 → t.flag.c = out (readReg s rd) := by
    intro hone
    rw [hflag, hone]
    exact Flag.shift_c_one _ _ _ _
  have hsz : SignZeroOf t.flag (readReg t rd) := by
    rw [hflag, hvalue]
    exact Flag.shift_signZero _ _ _ _ _
  exact ⟨t, hnext, hvalue, hcarry, hsz, hframe⟩

/-- A shift by 16 or more places completes, and leaves the same things as they were (42_shift.md R170, log 9). -/
theorem longShift_spec (hrd : rd ≠ .flag) (hm : OperandReadable s m) (hn : 16 ≤ (operandValue s m).toNat) :
    ∃ t, twoOperand s rd m (shift r out) = .next t ∧ TwoOperandFrame s t rd m := by
  obtain ⟨t, hnext, -, -, -, hframe⟩ := twoOperand_spec hrd hm (shift_of_ge hn _) (Flag.shiftBig_control _ _)
  exact ⟨t, hnext, hframe⟩

end

/-- The four shifts are the common form for three functions and two bits moved out (42_shift.md R171 to R174). -/
theorem twoMeaning_shift {op : TwoOp} (h : op ∈ [TwoOp.shla, .shll, .shra, .shrl]) (s : State) (rd : Reg) (m : Mode) :
    ∃ (r : Word → Nat → Word) (out : Word → Bool),
      twoMeaning s rd m op = twoOperand s rd m (shift r out) ∧
        (op = .shla ∨ op = .shll → r = shiftedLeft ∧ out = outLeft) ∧
        (op = .shra → r = shiftedRightArithmetic ∧ out = outRight) ∧
        (op = .shrl → r = shiftedRightLogical ∧ out = outRight) := by
  simp only [List.mem_cons, List.not_mem_nil, or_false] at h
  rcases h with rfl | rfl | rfl | rfl
  · exact ⟨shiftedLeft, outLeft, rfl, by simp⟩
  · exact ⟨shiftedLeft, outLeft, rfl, by simp⟩
  · exact ⟨shiftedRightArithmetic, outRight, rfl, by simp⟩
  · exact ⟨shiftedRightLogical, outRight, rfl, by simp⟩

end Sys2Proof.Machine
end

section
/-! CERTIFICATES. The statements about the shifts. -/

namespace Sys2Proof.Machine

/-- Settles O32: each shift is the common form, whose function says what the numbers are and whose bit moved out is C. -/
theorem shiftMovesBitsAndCarry : Obligations.ShiftMovesBitsAndCarry := by
  intro s op rd m hrd hm hop hn
  obtain ⟨r, out, hmeaning, hleft, harithmetic, hlogical⟩ := twoMeaning_shift hop s rd m
  obtain ⟨t, hnext, hvalue, hcarry, hsz, hframe⟩ := shortShift_spec (r := r) (out := out) hrd hm hn
  refine ⟨t, (exec_mkTwo op rd m s).trans (hmeaning.trans hnext), ⟨fun h => ?_, fun h => ?_, fun h => ?_⟩, hsz, hframe⟩ <;>
    rw [hvalue]
  · obtain ⟨rfl, rfl⟩ := hleft h
    exact ⟨shiftedLeft_toNat _ _, hcarry⟩
  · obtain ⟨rfl, rfl⟩ := harithmetic h
    exact ⟨shiftedRightArithmetic_toInt _ _, hcarry⟩
  · obtain ⟨rfl, rfl⟩ := hlogical h
    exact ⟨shiftedRightLogical_toNat _ _, hcarry⟩

/-- Settles O33: a count of 16 or more frees the result and the condition codes of the common form, and nothing else. -/
theorem longShiftChangesOnlyResultAndConditionCodes : Obligations.LongShiftChangesOnlyResultAndConditionCodes := by
  intro s op rd m hrd hm hop hn
  obtain ⟨r, out, hmeaning, -⟩ := twoMeaning_shift hop s rd m
  obtain ⟨t, hnext, hframe⟩ := longShift_spec (r := r) (out := out) hrd hm hn
  exact ⟨t, (exec_mkTwo op rd m s).trans (hmeaning.trans hnext), hframe⟩

end Sys2Proof.Machine
end

section
/-! SUPPORT. Jumps and the stack in the words of the statements: the conditions as R181 to R195 state them, what they decide
after CMP, and what a push and a RET change. -/

namespace Sys2Proof.Machine

/-! ### Targets and conditions -/

theorem targetAddr_eq_jumpGoal (s : State) (g : Target) : targetAddr s g = jumpGoal s g := by
  cases g <;> rfl

/-- The Boolean a jump tests is its condition (43_jump_call.md R181 to R195). -/
theorem Flag.cond_iff (f : Flag) (c : Cond) : f.cond c = true ↔ JumpCondition f c := by
  cases c <;> simp [Flag.cond, JumpCondition]

/-- A jump whose condition holds goes to its target (43_jump_call.md R180). -/
theorem jump_taken {s : State} {c : Cond} (h : JumpCondition s.flag c) (g : Target) :
    jump s c g = .next { s with pc := jumpGoal s g } := by
  rw [jump, if_pos ((Flag.cond_iff _ _).mpr h), targetAddr_eq_jumpGoal]

/-- A jump whose condition fails goes to the address after it (43_jump_call.md R180). -/
theorem jump_not_taken {s : State} {c : Cond} (h : ¬ JumpCondition s.flag c) (g : Target) :
    jump s c g = .next { s with pc := s.pc + 4#16 } := by
  rw [jump, if_neg (mt (Flag.cond_iff _ _).mp h), nextTwo]

/-! ### The conditions after CMP -/

theorem Flag.sub_z_iff (f : Flag) (a b : Word) : (f.sub a b).z = true ↔ a = b :=
  (Flag.sub_signZero f a b).1.trans sub_eq_zero

/-- S and V of a difference disagree where the signed numbers compare: V says whether S shows the wrong sign
(43_jump_call.md R197). -/
theorem Flag.sub_s_ne_v_iff (f : Flag) (a b : Word) : (f.sub a b).s ≠ (f.sub a b).v ↔ a.toInt < b.toInt := by
  have hs := (Flag.sub_signZero f a b).2
  have hv := Flag.sub_v_iff f a b
  have ha := a.toInt_lt
  have ha' := a.le_toInt
  have hb := b.toInt_lt
  have hb' := b.le_toInt
  rw [BitVec.toInt_sub, Int.bmod_def] at hs
  rw [ne_eq, Bool.eq_iff_iff, hs, hv]
  omega

/-- The table of R197: the jumps by the relation of `a` and `b` they decide after `CMP a,b`, the signed relations first. -/
def comparisonTable (a b : Word) : List (Cond × Prop) :=
  [(.jgt, a.toInt > b.toInt), (.jge, a.toInt ≥ b.toInt), (.jz, a.toInt = b.toInt), (.jnz, a.toInt ≠ b.toInt),
   (.jle, a.toInt ≤ b.toInt), (.jlt, a.toInt < b.toInt), (.jhi, a.toNat > b.toNat), (.jnc, a.toNat ≥ b.toNat),
   (.jz, a.toNat = b.toNat), (.jnz, a.toNat ≠ b.toNat), (.jls, a.toNat ≤ b.toNat), (.jc, a.toNat < b.toNat)]

/-- After CMP the condition of each jump in the table is its relation. -/
theorem jumpCondition_sub_iff {a b : Word} {c : Cond} {p : Prop} (h : (c, p) ∈ comparisonTable a b) (f : Flag) :
    JumpCondition (f.sub a b) c ↔ p := by
  have hequal : (f.sub a b).z = true ↔ a.toNat = b.toNat := (Flag.sub_z_iff f a b).trans BitVec.toNat_inj.symm
  have hsigned : a.toInt = b.toInt ↔ a.toNat = b.toNat := BitVec.toInt_inj.trans BitVec.toNat_inj.symm
  have hbelow := Flag.sub_c_iff f a b
  have hless := Flag.sub_s_ne_v_iff f a b
  have hnotLess : (f.sub a b).s = (f.sub a b).v ↔ ¬ a.toInt < b.toInt := by rw [← hless, not_ne_iff]
  simp only [comparisonTable, List.mem_cons, Prod.mk.injEq, List.not_mem_nil, or_false] at h
  rcases h with ⟨rfl, rfl⟩ | ⟨rfl, rfl⟩ | ⟨rfl, rfl⟩ | ⟨rfl, rfl⟩ | ⟨rfl, rfl⟩ | ⟨rfl, rfl⟩ | ⟨rfl, rfl⟩ | ⟨rfl, rfl⟩ |
    ⟨rfl, rfl⟩ | ⟨rfl, rfl⟩ | ⟨rfl, rfl⟩ | ⟨rfl, rfl⟩
  all_goals simp only [JumpCondition, ← Bool.not_eq_true, hequal, hbelow, hless, hnotLess] <;> omega

/-! ### A push and a RET -/

/-- `t` is `s`, PC aside, after the word `v` is pushed on the stack of the mode (20_memory.md R70). -/
def WordPushed (s t : State) (v : Word) : Prop :=
  cellValue t (stackCell s.flag.p) = stackPointer s - 2#16 ∧ SameCellsBut [stackCell s.flag.p] s t ∧
    physWord t (stackPointer s - 2#16) = v ∧ SameBytesBut [stackPointer s - 2#16, stackPointer s - 1#16] s t ∧
    t.flag = s.flag ∧ SameIo s t ∧ SameRun s t ∧ t.draws = s.draws

theorem physWord_pushed {s : State} (h : CanPush s) (v : Word) : physWord (pushed s v) (stackPointer s - 2#16) = v := by
  have hne : stackPointer s - 2#16 + 1#16 ≠ stackPointer s - 2#16 := by simp
  rw [physWord, physByte_pushed h, physByte_pushed h, if_pos rfl, if_neg hne, if_pos rfl, bytesToWord_hi_lo]

theorem sameBytes_pushed {s : State} (h : CanPush s) (v : Word) :
    SameBytesBut [stackPointer s - 2#16, stackPointer s - 1#16] s (pushed s v) := by
  intro a ha
  obtain ⟨hhi, hlo⟩ : a ≠ stackPointer s - 2#16 ∧ a ≠ stackPointer s - 1#16 := by simpa using ha
  have hnext : stackPointer s - 2#16 + 1#16 = stackPointer s - 1#16 := by bv_omega
  rw [physByte_pushed h, hnext, if_neg hhi, if_neg hlo]

theorem sameCells_pushed (s : State) (v : Word) : SameCellsBut [stackCell s.flag.p] s (pushed s v) := by
  intro c hc
  rw [cellValue_pushed, if_neg (by simpa using hc)]

/-- A push with room for its word does that, wherever PC goes. -/
theorem wordPushed_of_canPush {s : State} (h : CanPush s) (v pc : Word) :
    WordPushed s { pushed s v with pc := pc } v := by
  refine ⟨?_, fun c hc => ?_, ?_, fun a ha => ?_, pushed_flag s v, sameIo_pushed s v,
    ⟨pushed_halted s v, pushed_interrupts s v⟩, pushed_draws s v⟩
  · exact (cellValue_congr rfl rfl rfl rfl _).trans ((cellValue_pushed s v _).trans (if_pos rfl))
  · exact (cellValue_congr rfl rfl rfl rfl c).trans (sameCells_pushed s v c hc)
  · exact (physWord_congr rfl rfl _).trans (physWord_pushed h v)
  · exact (physByte_congr rfl rfl a).trans (sameBytes_pushed h v a ha)

/-- After a push the stack pointer of the mode points at the word pushed. -/
theorem WordPushed.stackPointer_eq {s t : State} {v : Word} (h : WordPushed s t v) :
    stackPointer t = stackPointer s - 2#16 := by
  obtain ⟨hcell, -, -, -, hflag, -⟩ := h
  rw [stackPointer_eq_cell t, hflag, hcell]

/-- The word pushed can be read back. -/
theorem WordPushed.top_readable {s t : State} {v : Word} (h : WordPushed s t v) (hpush : CanPush s) :
    WordReadable t (stackPointer t) := by
  obtain ⟨hmmu, heven, -⟩ := hpush
  rw [h.stackPointer_eq]
  obtain ⟨-, -, -, -, -, ⟨-, hsame, -⟩, -⟩ := h
  exact ⟨hsame.trans hmmu, heven⟩

/-- RET with a readable word at the stack pointer: PC is that word, the stack pointer of the mode is 2 higher, and the rest
is as it was (45_stack_return.md R212). -/
theorem return_spec {s : State} (h : WordReadable s (stackPointer s)) :
    ∃ t, returnFromSubroutine s = .next t ∧ t.pc = physWord s (stackPointer s) ∧
      cellValue t (stackCell s.flag.p) = stackPointer s + 2#16 ∧ SameCellsBut [stackCell s.flag.p] s t ∧
      t.flag = s.flag ∧ SameBytesBut [] s t ∧ SameIo s t ∧ SameRun s t ∧ t.draws = s.draws := by
  have hcell : ∀ c, cellValue { setStackPointer s (stackPointer s + 2#16) with pc := physWord s (stackPointer s) } c =
      if c = stackCell s.flag.p then stackPointer s + 2#16 else cellValue s c :=
    fun c => (cellValue_congr rfl rfl rfl rfl c).trans (cellValue_setStackPointer _ _ c)
  refine ⟨_, returnFromSubroutine_eq h, rfl, ?_, fun c hc => ?_, setStackPointer_flag s _, fun a _ => ?_,
    sameIo_setStackPointer s _, ⟨setStackPointer_halted s _, setStackPointer_interrupts s _⟩, setStackPointer_draws s _⟩
  · rw [hcell, if_pos rfl]
  · rw [hcell, if_neg (by simpa using hc)]
  · exact physByte_congr (setStackPointer_iplAttached s _) (setStackPointer_mem s _) a

theorem SameIo.trans {s t u : State} (hst : SameIo s t) (htu : SameIo t u) : SameIo s u := by
  simp_all [SameIo]

theorem SameRun.trans {s t u : State} (hst : SameRun s t) (htu : SameRun t u) : SameRun s u :=
  ⟨htu.1.trans hst.1, htu.2.trans hst.2⟩

/-- CALL with room for a word: PC is the target, and the address after CALL is pushed (43_jump_call.md R196). -/
theorem call_spec {s : State} (h : CanPush s) (g : Target) :
    ∃ t, exec (mkCall g) s = .next t ∧ t.pc = jumpGoal s g ∧ WordPushed s t (s.pc + 4#16) :=
  ⟨_, (exec_mkCall g s).trans (call_eq h g), targetAddr_eq_jumpGoal s g, wordPushed_of_canPush h _ _⟩

end Sys2Proof.Machine
end

section
/-! CERTIFICATES. The statements about the jumps, CALL, and RET after CALL. -/

namespace Sys2Proof.Machine

/-- Settles O36: a jump is a write of PC, which its condition chooses. -/
theorem jumpGoesWhereConditionSays : Obligations.JumpGoesWhereConditionSays := by
  intro s c g
  by_cases h : JumpCondition s.flag c
  · exact ⟨_, (exec_mkJump c g s).trans (jump_taken h g), fun _ => rfl, fun hnot => absurd h hnot⟩
  · exact ⟨_, (exec_mkJump c g s).trans (jump_not_taken h g), fun hc => absurd hc h, fun _ => rfl⟩

/-- Settles O37: the flags after CMP are those of the difference, for which the table says what each condition is. -/
theorem compareThenJumpDecidesRelation : Obligations.CompareThenJumpDecidesRelation := by
  intro s rd m hm
  refine ⟨_, (exec_mkTwo .cmp rd m s).trans (compare_eq hm rd), fun c p hrow dsp => ?_⟩
  have hcond := jumpCondition_sub_iff hrow s.flag
  obtain ⟨u, hjump, htaken, hnot⟩ := jumpGoesWhereConditionSays
    { s with flag := s.flag.sub (readReg s rd) (operandValue s m), pc := s.pc + modeBytes m } c (.drct dsp)
  exact ⟨u, hjump, fun hp => congrArg State.pc (htaken (hcond.mpr hp)),
    fun hp => congrArg State.pc (hnot (mt hcond.mp hp))⟩

/-- Settles O38: CALL is the push of the address after it and the jump to its target. -/
theorem callPushesReturnAddress : Obligations.CallPushesReturnAddress :=
  fun _ g h => call_spec h g

/-- Settles O39: the word RET pops is the one CALL pushed, and the stack pointer is back where it was. -/
theorem returnUndoesCall : Obligations.ReturnUndoesCall := by
  intro s g hpush
  obtain ⟨t, hcall, -, hpushed⟩ := call_spec hpush g
  obtain ⟨u, hret, hpc, hsp, hcells', hflag', hbytes', hio', hrun', -⟩ := return_spec (hpushed.top_readable hpush)
  have htop := hpushed.stackPointer_eq
  obtain ⟨-, hcells, hword, hbytes, hflag, hio, hrun, -⟩ := hpushed
  rw [hflag, htop] at hsp
  rw [hflag] at hcells'
  have hsame : SameCellsBut [] s u := by
    intro c _
    by_cases hc : c = stackCell s.flag.p
    · rw [hc, hsp, BitVec.sub_add_cancel, stackPointer_eq_cell]
    · have hout : c ∉ [stackCell s.flag.p] := by simpa using hc
      exact (hcells' c hout).trans (hcells c hout)
  exact ⟨t, u, hcall, (exec_ret t).trans hret, hpc.trans (htop ▸ hword), hsame, hflag'.trans hflag,
    fun a ha => (hbytes' a List.not_mem_nil).trans (hbytes a ha), hio.trans hio', hrun.trans hrun'⟩

end Sys2Proof.Machine
end

section
/-! SUPPORT. The I/O rows in the words of the statements: what an IN of each row answers within what the spec fixes, what an
OUT to each row changes, and what IN and OUT leave alone. -/

namespace Sys2Proof.Machine

theorem portBytes_eq_ioLength (m : PortMode) : portBytes m = ioLength m := by
  cases m <;> rfl

/-- The even rows that are 8 bits wide (60_exceptions.md R262). -/
theorem isByteRow_iff {a : BitVec 8} (ha : a.toNat % 2 = 0) :
    isByteRow a = true ↔
      0x08 ≤ a.toNat ∧ a.toNat ≤ 0x10 ∨ 0x18 ≤ a.toNat ∧ a.toNat ≤ 0x36 ∨ 0xFC ≤ a.toNat := by
  simp only [isByteRow, Bool.or_eq_true, Bool.and_eq_true, decide_eq_true_eq]
  omega

/-! ### The answer of a row -/

section
variable {s : State} {a : BitVec 8}

theorem ioAnswer_modeRegister (h : a.toNat = 0x1E) : ioAnswer s a = 0x0001#16 := by
  simp [ioAnswer, h]

theorem ioAnswer_rn4020Ram (h : a.toNat = 0x2E) : ioAnswer s a = s.dev.rn4020Ram.setWidth 16 := by
  simp [ioAnswer, h]

theorem ioAnswer_rn4020Cmd_initial (h : a.toNat = 0x2C) (hw : s.dev.rn4020CmdWritten = false) :
    ioAnswer s a = s.dev.rn4020Cmd.setWidth 16 := by
  simp [ioAnswer, h, hw]

theorem ioAnswer_rn4020Cmd_written (h : a.toNat = 0x2C) (hw : s.dev.rn4020CmdWritten = true) :
    ioAnswer s a = Config.ioAnswer s.draws a &&& 0x000F#16 := by
  simp [ioAnswer, answerMask, h, hw]

theorem ioAnswer_tecSwitches (h : a.toNat ∈ [0x32, 0x34]) : ioAnswer s a = 0#16 := by
  obtain h | h : a.toNat = 0x32 ∨ a.toNat = 0x34 := by simpa using h
  all_goals simp [ioAnswer, h]

theorem ioAnswer_violationAddr (h : a.toNat = 0xA2) : ioAnswer s a = s.violationAddr := by
  simp [ioAnswer, h]

/-- Bits 1 and 0 of row A4h are the two violation bits; the oracle answers the others (20_memory.md R81). -/
theorem ioAnswer_violationBits (h : a.toNat = 0xA4) :
    (ioAnswer s a).getLsbD 1 = s.badAddr ∧ (ioAnswer s a).getLsbD 0 = s.memVio := by
  cases hbad : s.badAddr <;> cases hvio : s.memVio <;> simp [ioAnswer, h, hbad, hvio]

theorem ioAnswer_pageNumber (h : a.toNat = 0xA6) : ioAnswer s a = s.pageNumber := by
  simp [ioAnswer, h]

/-- The rows whose answer the spec fixes, the TLB rows aside (20_memory.md R81, 60_exceptions.md R266, R267, R270). -/
def fixedAnswerRows : List Nat := [0x1E, 0x2C, 0x2E, 0x32, 0x34, 0xA2, 0xA4, 0xA6]

/-- Elsewhere the oracle answers, within the layout of the row (20_memory.md R74). -/
theorem ioAnswer_oracle (hfixed : a.toNat ∉ fixedAnswerRows) (htlb : isTlbRow a = false) :
    ioAnswer s a = Config.ioAnswer s.draws a &&& answerMask a := by
  unfold ioAnswer
  simp only
  split
  case h_9 => simp [htlb]
  all_goals simp_all [fixedAnswerRows]

/-- The layouts of the status rows, of the rotary switch and of the function register: the bits that may be set
(60_exceptions.md R263, R265, R269). -/
def rowLayouts : List (Nat × Word) :=
  [(0x0A, 0x00C0#16), (0x0E, 0x00C0#16), (0x2A, 0x00C0#16), (0x10, 0x00C1#16), (0xFC, 0x001F#16), (0xFE, 0x000F#16)]

theorem ioAnswer_layout {mask : Word} (h : (a.toNat, mask) ∈ rowLayouts) :
    ioAnswer s a = Config.ioAnswer s.draws a &&& mask := by
  simp only [rowLayouts, List.mem_cons, Prod.mk.injEq, List.not_mem_nil, or_false] at h
  have hmask : answerMask a = mask := by
    rcases h with ⟨h, rfl⟩ | ⟨h, rfl⟩ | ⟨h, rfl⟩ | ⟨h, rfl⟩ | ⟨h, rfl⟩ | ⟨h, rfl⟩ <;> simp [answerMask, h]
  have hfixed : a.toNat ∉ fixedAnswerRows := by
    simp only [fixedAnswerRows, List.mem_cons, List.not_mem_nil, or_false]
    omega
  have htlb : isTlbRow a = false := by
    rw [← Bool.not_eq_true, isTlbRow_iff]
    omega
  rw [ioAnswer_oracle hfixed htlb, hmask]

theorem toNat_and_lt {m : Word} {n : Nat} (hm : m.toNat < n) (x : Word) : (x &&& m).toNat < n := by
  rw [BitVec.toNat_and]
  exact lt_of_le_of_lt Nat.and_le_right hm

/-- A status row answers in bits 7 and 6 only (60_exceptions.md R263). -/
theorem ioAnswer_status (h : a.toNat ∈ [0x0A, 0x0E, 0x2A]) : ioAnswer s a &&& 0xFF3F#16 = 0#16 := by
  have hrow : (a.toNat, 0x00C0#16) ∈ rowLayouts := by
    simp only [List.mem_cons, List.not_mem_nil, or_false] at h
    rcases h with h | h | h <;> simp [rowLayouts, h]
  rw [ioAnswer_layout hrow, BitVec.and_assoc]
  exact BitVec.and_zero

/-- uSD-Stat answers in bits 7, 6 and 0 only (60_exceptions.md R265). -/
theorem ioAnswer_usdStat (h : a.toNat = 0x10) : ioAnswer s a &&& 0xFF3E#16 = 0#16 := by
  rw [ioAnswer_layout (mask := 0x00C1#16) (by simp [rowLayouts, h]), BitVec.and_assoc]
  exact BitVec.and_zero

/-- The rotary switch answers five bits (60_exceptions.md R269). -/
theorem ioAnswer_rotarySwitch (h : a.toNat = 0xFC) : (ioAnswer s a).toNat < 32 := by
  rw [ioAnswer_layout (mask := 0x001F#16) (by simp [rowLayouts, h])]
  exact toNat_and_lt (by decide) _

/-- The function register answers four bits (60_exceptions.md R269). -/
theorem ioAnswer_functionRegister (h : a.toNat = 0xFE) : (ioAnswer s a).toNat < 16 := by
  rw [ioAnswer_layout (mask := 0x000F#16) (by simp [rowLayouts, h])]
  exact toNat_and_lt (by decide) _

/-- RN4020-Cmd answers four bits, written or not (60_exceptions.md R267). -/
theorem ioAnswer_rn4020Cmd_lt (h : a.toNat = 0x2C) : (ioAnswer s a).toNat < 16 := by
  cases hw : s.dev.rn4020CmdWritten with
  | false =>
    rw [ioAnswer_rn4020Cmd_initial h hw, BitVec.toNat_setWidth_of_le (by decide)]
    exact s.dev.rn4020Cmd.isLt
  | true =>
    rw [ioAnswer_rn4020Cmd_written h hw]
    exact toNat_and_lt (by decide) _

theorem answerMask_lt (h : isByteRow a = true) : (answerMask a).toNat < 256 := by
  unfold answerMask
  split
  case h_8 => simp [h]
  all_goals decide

/-- An 8-bit row answers a byte (20_memory.md R74): the rows the spec fixes by what they hold, the others by their layout. -/
theorem ioAnswer_byteRow_lt (h : isByteRow a = true) (heven : a.toNat % 2 = 0) : (ioAnswer s a).toNat < 256 := by
  have hrange := (isByteRow_iff heven).mp h
  by_cases hfixed : a.toNat ∈ fixedAnswerRows
  · have hrow : a.toNat = 0x1E ∨ a.toNat = 0x2C ∨ a.toNat = 0x2E ∨ a.toNat ∈ [0x32, 0x34] := by
      simp only [fixedAnswerRows, List.mem_cons, List.not_mem_nil, or_false] at hfixed ⊢
      omega
    rcases hrow with h1E | h2C | h2E | hsw
    · rw [ioAnswer_modeRegister h1E]
      decide
    · exact (ioAnswer_rn4020Cmd_lt h2C).trans (by decide)
    · rw [ioAnswer_rn4020Ram h2E, BitVec.toNat_setWidth_of_le (by decide)]
      exact s.dev.rn4020Ram.isLt
    · rw [ioAnswer_tecSwitches hsw]
      decide
  · have htlb : isTlbRow a = false := by
      rw [← Bool.not_eq_true, isTlbRow_iff]
      omega
    rw [ioAnswer_oracle hfixed htlb]
    exact toNat_and_lt (answerMask_lt h) _

end

/-- IN with the privilege it needs, at an I/O address, whatever Rd: the answer of the row in Rd if that is not FLAG, in FLAG
by WriteFLAG if it is, and the rest as it was (44_io.md R201). -/
theorem exec_in_spec {s : State} {m : PortMode} (hp : mayDoIo s = true) (ha : isIoAddress (portAddr s m) = true)
    (rd : Reg) :
    ∃ t, exec (mkIn rd m) s = .next t ∧
      (rd ≠ .flag → readReg t rd = ioAnswer s (ioRow (portAddr s m)) ∧ t.flag = s.flag) ∧
      (rd = .flag → FlagWritten s.flag t.flag (ioAnswer s (ioRow (portAddr s m)))) ∧
      SameCellsBut (destCells s.flag.p rd) s t ∧ SameBytesBut [] s t ∧ SameIo s t ∧ SameRun s t ∧
      t.pc = s.pc + ioLength m := by
  let drawn : State := { s with draws := s.draws + 1 }
  refine ⟨_, (exec_mkIn rd m s).trans (input_eq hp ha), fun hrd => ⟨?_, ?_⟩, fun hrd => ?_, fun c hc => ?_, fun b hb => ?_,
    sameIo_writeReg drawn rd _, ⟨writeReg_halted drawn rd _, writeReg_interrupts drawn rd _⟩,
    congrArg (s.pc + ·) (portBytes_eq_ioLength m)⟩
  · exact (readReg_congr rfl rfl rfl rfl rfl rd).trans (readReg_writeReg_same hrd _)
  · exact (writeReg_flag drawn rd _).trans (if_neg hrd)
  · subst hrd
    exact Flag.write_spec s.flag _
  · exact (cellValue_congr rfl rfl rfl rfl c).trans (writeReg_sameCellsBut drawn rd _ c hc)
  · exact (physByte_congr rfl rfl b).trans (sameBytes_writeReg drawn rd _ b hb)

/-! ### The write of a row -/

/-- `s` after a write of `v` to row `a` that the row takes: the event and the device register (20_memory.md R75), and what
the write does to the IPL switch, the MMU and the TLB (R79 to R82). -/
def rowWritten (s : State) (a : BitVec 8) (v : Word) : State :=
  recordOutput
    { s with
      iplAttached := s.iplAttached && decide (a.toNat ≠ 0xA0)
      mmuEnable := s.mmuEnable && decide (a.toNat ≠ 0xA2)
      pageTable := if a.toNat = 0xA6 then v else s.pageTable
      tlb := if isTlbRow a then (tlbWrite s a v).tlb else s.tlb } a v

theorem rowWritten_iplAttached {a : BitVec 8} (h : a.toNat ≠ 0xA0) (s : State) (v : Word) :
    (rowWritten s a v).iplAttached = s.iplAttached := by
  simp [rowWritten, h]

theorem rowWritten_tlb {a : BitVec 8} (h : ¬ (0x80 ≤ a.toNat ∧ a.toNat < 0xA0)) (s : State) (v : Word) :
    (rowWritten s a v).tlb = s.tlb :=
  if_neg (mt (isTlbRow_iff a).mp h)

theorem rowWritten_outputs (s : State) (a : BitVec 8) (v : Word) :
    (rowWritten s a v).outputs = s.outputs ++ [{ row := BitVec.ofNat 8 a.toNat, value := reachesDevice a v }] := by
  rw [BitVec.ofNat_toNat, BitVec.setWidth_eq]
  rfl

/-- A row takes a value: row 10h one that starts no microSD operation (20_memory.md R92), row A0h one with bit 0 set (R79),
row A2h one that leaves the MMU off (R85). -/
def RowAccepts (n : Nat) (v : Word) : Prop :=
  (n = 0x10 → v.toNat % 8 = 0) ∧ (n = 0xA0 → v.getLsbD 0 = true) ∧ (n = 0xA2 → v.getLsbD 0 = false)

/-- The write of a row that takes the value, whichever row it is. -/
theorem ioWrite_eq {a : BitVec 8} {v : Word} (h : RowAccepts a.toNat v) (s : State) :
    ioWrite s a v = .ok (rowWritten s a v) := by
  obtain ⟨hstart, hdetach, henable⟩ := h
  unfold ioWrite
  split
  case h_1 ha =>
    have hbits : v.setWidth 3 = 0#3 := BitVec.eq_of_toNat_eq (by simpa using hstart ha)
    simp [hbits, rowWritten, ha, isTlbRow]
  case h_2 ha =>
    rw [if_pos (hdetach ha)]
    simp [rowWritten, ha, isTlbRow]
  case h_3 ha =>
    rw [if_neg (Bool.eq_false_iff.mp (henable ha))]
    simp [rowWritten, ha, isTlbRow]
  case h_4 ha => simp [rowWritten, ha, isTlbRow]
  case h_5 _ hnotIpl hnotMmu hnotTable =>
    have hother : a.toNat ≠ 0xA0 ∧ a.toNat ≠ 0xA2 ∧ a.toNat ≠ 0xA6 := ⟨hnotIpl, hnotMmu, hnotTable⟩
    cases htlb : isTlbRow a with
    | false => simp [rowWritten, hother, htlb]
    | true => simp [rowWritten, tlbWrite, hother, htlb]

/-- Each device register takes what is written to its row and to no other (60_exceptions.md R262, log 34). -/
theorem Devices.written_spec (d : Devices) (a : BitVec 8) (v : Word) : DevicesAfterOut d (d.written a v) a.toNat v := by
  have hlow : v.setWidth 4 = v.extractLsb' 0 4 := BitVec.setWidth_eq_extractLsb' (by decide)
  unfold Devices.written
  split
  all_goals simp_all [DevicesAfterOut]

/-- Only the low byte reaches an 8-bit row (20_memory.md R75). -/
theorem reachesDevice_byteRow {a : BitVec 8} (h : isByteRow a = true) (v : Word) :
    (reachesDevice a v).toNat = v.toNat % 256 := by
  simp only [reachesDevice, h, if_true, wordLo, BitVec.toNat_setWidth, BitVec.extractLsb'_toNat, Nat.shiftRight_zero]
  omega

theorem reachesDevice_wordRow {a : BitVec 8} (h : isByteRow a = false) (v : Word) : reachesDevice a v = v := by
  simp [reachesDevice, h]

/-- OUT with the privilege it needs, at an I/O address, of a value its row takes: the write of the row (44_io.md R202). -/
theorem exec_out_eq {s : State} {rd : Reg} {m : PortMode} (hp : mayDoIo s = true)
    (ha : isIoAddress (portAddr s m) = true) (hv : RowAccepts (ioRow (portAddr s m)).toNat (readReg s rd)) :
    exec (mkOut rd m) s =
      .next { rowWritten s (ioRow (portAddr s m)) (readReg s rd) with pc := s.pc + ioLength m } := by
  rw [exec_mkOut, output_eq hp ha (ioWrite_eq hv s), portBytes_eq_ioLength]

end Sys2Proof.Machine
end

section
/-! CERTIFICATES. The statements about IN and OUT. -/

namespace Sys2Proof.Machine

/-- Settles O49: IN puts the answer of its row in Rd, and each clause is what the row answers. -/
theorem inputPutsAnswerInRegister : Obligations.InputPutsAnswerInRegister := by
  intro s rd m hpriv hlt heven
  have hrow := ioRow_toNat hlt
  obtain ⟨t, hexec, hvalue, hflag, hframe⟩ :=
    exec_in_spec ((mayDoIo_iff s).mpr hpriv) ((isIoAddress_iff _).mpr ⟨hlt, heven⟩) rd
  refine ⟨t, _, hexec, hvalue, hflag, ?_, hframe⟩
  rw [← hrow] at heven ⊢
  exact ⟨fun h => ioAnswer_byteRow_lt ((isByteRow_iff heven).mpr h) heven, ioAnswer_modeRegister, ioAnswer_status,
    ioAnswer_usdStat, ioAnswer_rotarySwitch, ioAnswer_functionRegister, ioAnswer_tecSwitches, ioAnswer_rn4020Ram,
    ioAnswer_rn4020Cmd_lt, ioAnswer_rn4020Cmd_initial, ioAnswer_violationAddr, ioAnswer_violationBits,
    ioAnswer_pageNumber⟩

/-- Settles O50: OUT of a value its row takes is the write of that row, which changes the I/O side only. -/
theorem outputReachesDevice : Obligations.OutputReachesDevice := by
  intro s rd m hpriv hlt heven hstart hdetach henable
  have hrow := ioRow_toNat hlt
  have haccepts : RowAccepts (ioRow (portAddr s m)).toNat (readReg s rd) := hrow ▸ ⟨hstart, hdetach, henable⟩
  have hexec := exec_out_eq ((mayDoIo_iff s).mpr hpriv) ((isIoAddress_iff _).mpr ⟨hlt, heven⟩) haccepts
  refine ⟨_, hexec, ?_, rfl, rfl, rfl, rfl, rfl, fun c _ => cellValue_congr rfl rfl rfl rfl c, rfl, ⟨rfl, rfl⟩, rfl, rfl⟩
  rw [← hrow] at heven ⊢
  refine ⟨⟨_, rowWritten_outputs _ _ _, fun h => ?_, fun h => ?_⟩, rfl, rfl, rfl, fun h => rowWritten_tlb h _ _,
    Devices.written_spec _ _ _, fun h b _ => physByte_congr (rowWritten_iplAttached h s (readReg s rd)) rfl b⟩
  · exact reachesDevice_byteRow ((isByteRow_iff heven).mpr h) _
  · exact reachesDevice_wordRow (by rwa [← Bool.not_eq_true, isByteRow_iff heven]) _

end Sys2Proof.Machine
end

section
/-! SUPPORT. PUSH, POP and RETI in the words of the statements: what a move of the stack pointer leaves alone, what each of
the three changes, and what a pop restores after a push. -/

namespace Sys2Proof.Machine

/-! ### A move of the stack pointer -/

theorem cellValue_setStackPointer_stackCell (s : State) (v : Word) :
    cellValue (setStackPointer s v) (stackCell s.flag.p) = v := by
  rw [cellValue_setStackPointer, if_pos rfl]

theorem sameCells_setStackPointer (s : State) (v : Word) : SameCellsBut [stackCell s.flag.p] s (setStackPointer s v) := by
  intro c hc
  rw [cellValue_setStackPointer, if_neg (by simpa using hc)]

theorem sameBytes_setStackPointer (s : State) (v : Word) : SameBytesBut [] s (setStackPointer s v) :=
  fun a _ => physByte_congr (setStackPointer_iplAttached s v) (setStackPointer_mem s v) a

/-! ### PUSH -/

/-- PUSH of a register but the stack pointer in use, with room for a word: the register's value is pushed, and PC is past
the instruction (45_stack_return.md R210). -/
theorem pushRegister_spec {s : State} {rd : Reg} (hr : namesStackPointer s rd = false) (h : CanPush s) :
    ∃ t, pushRegister s rd = .next t ∧ WordPushed s t (readReg s rd) ∧ t.pc = s.pc + 2#16 :=
  ⟨_, pushRegister_eq hr h, wordPushed_of_canPush h _ _, rfl⟩

/-! ### POP -/

theorem namesStackPointer_congr {s t : State} (h : t.flag = s.flag) (rd : Reg) :
    namesStackPointer t rd = namesStackPointer s rd := by
  cases rd <;> simp [namesStackPointer, h]

section
variable {s : State} {rd : Reg}

/-- A register code that POP accepts does not stand for the cell of the stack pointer in use (45_stack_return.md R211). -/
theorem stackCell_notMem_destCells (h : namesStackPointer s rd = false) :
    stackCell s.flag.p ∉ destCells s.flag.p rd := by
  cases rd with
  | g i => cases s.flag.p <;> simp [stackCell, destCells, cellOf]
  | fp => cases s.flag.p <;> simp [stackCell, destCells, cellOf]
  | sp => simp [namesStackPointer] at h
  | usp =>
    have hp : s.flag.p = true := by simpa [namesStackPointer] using h
    simp [stackCell, destCells, cellOf, hp]
  | flag => simp [destCells, cellOf]

/-- A register write after a move of the stack pointer keeps the move, but for the cell that the register names. -/
theorem cellValue_writeReg_setStackPointer {c : RegCell} (hc : c ∉ destCells s.flag.p rd) (v w : Word) :
    cellValue (writeReg (setStackPointer s v) rd w) c = cellValue (setStackPointer s v) c :=
  writeReg_sameCellsBut (setStackPointer s v) rd w c (by rwa [setStackPointer_flag])

theorem sameCells_writeReg_setStackPointer (v w : Word) :
    SameCellsBut (stackCell s.flag.p :: destCells s.flag.p rd) s (writeReg (setStackPointer s v) rd w) := by
  intro c hc
  obtain ⟨hstack, hdest⟩ : c ∉ [stackCell s.flag.p] ∧ c ∉ destCells s.flag.p rd := by simpa using hc
  exact (cellValue_writeReg_setStackPointer hdest v w).trans (sameCells_setStackPointer s v c hstack)

theorem sameBytes_writeReg_setStackPointer (v w : Word) :
    SameBytesBut [] s (writeReg (setStackPointer s v) rd w) :=
  fun a ha => (sameBytes_writeReg (setStackPointer s v) rd w a ha).trans (sameBytes_setStackPointer s v a ha)

/-- POP into a register but the stack pointer in use, with a readable word at the stack pointer: the stack pointer of the mode
is 2 higher, the word is in Rd if that is not FLAG, in FLAG by WriteFLAG if it is, and the rest is as it was
(45_stack_return.md R211). -/
theorem popRegister_spec (hr : namesStackPointer s rd = false) (h : WordReadable s (stackPointer s)) :
    ∃ t, popRegister s rd = .next t ∧ cellValue t (stackCell s.flag.p) = stackPointer s + 2#16 ∧
      (rd ≠ .flag → readReg t rd = physWord s (stackPointer s)) ∧
      t.flag = (if rd = .flag then s.flag.write (physWord s (stackPointer s)) else s.flag) ∧
      SameCellsBut (stackCell s.flag.p :: destCells s.flag.p rd) s t ∧ SameBytesBut [] s t ∧ SameIo s t ∧ SameRun s t ∧
      t.draws = s.draws ∧ t.pc = s.pc + 2#16 := by
  refine ⟨_, popRegister_eq hr h, ?_, fun hrd => ?_, ?_, fun c hc => ?_, fun a ha => ?_,
    (sameIo_setStackPointer s _).trans (sameIo_writeReg _ rd _), ⟨by simp, by simp⟩, by simp, rfl⟩
  · calc
      _ = cellValue (writeReg (setStackPointer s _) rd _) (stackCell s.flag.p) := cellValue_congr rfl rfl rfl rfl _
      _ = cellValue (setStackPointer s _) (stackCell s.flag.p) :=
        cellValue_writeReg_setStackPointer (stackCell_notMem_destCells hr) _ _
      _ = stackPointer s + 2#16 := cellValue_setStackPointer_stackCell s _
  · exact (readReg_congr rfl rfl rfl rfl rfl rd).trans (readReg_writeReg_same hrd _)
  · simp
  · exact (cellValue_congr rfl rfl rfl rfl c).trans (sameCells_writeReg_setStackPointer _ _ c hc)
  · exact (physByte_congr rfl rfl a).trans (sameBytes_writeReg_setStackPointer _ _ a ha)

end

/-! ### A pop after a push -/

section
variable {s t u : State} {v : Word}

/-- After a push and a pop the stack pointer of the mode is where it was (20_memory.md R70, R71). -/
theorem WordPushed.stackCell_restored (h : WordPushed s t v)
    (hsp : cellValue u (stackCell t.flag.p) = stackPointer t + 2#16) :
    cellValue u (stackCell s.flag.p) = stackPointer s := by
  have htop := h.stackPointer_eq
  obtain ⟨-, -, -, -, hflag, -⟩ := h
  rw [← hflag, hsp, htop, BitVec.sub_add_cancel]

/-- After a push and a pop only what the pop wrote beside the stack pointer can differ. -/
theorem WordPushed.sameCells_restored {cs : List RegCell} (h : WordPushed s t v)
    (hsp : cellValue u (stackCell t.flag.p) = stackPointer t + 2#16)
    (hcells : SameCellsBut (stackCell t.flag.p :: cs) t u) : SameCellsBut cs s u := by
  intro c hc
  by_cases hstack : c = stackCell s.flag.p
  · rw [hstack, h.stackCell_restored hsp, stackPointer_eq_cell]
  · obtain ⟨-, hpushed, -, -, hflag, -⟩ := h
    rw [hflag] at hcells
    exact (hcells c (by simp [hstack, hc])).trans (hpushed c (by simpa using hstack))

end

/-! ### RETI -/

/-- RETI with a readable word at the stack pointer: FLAG is written from that word, PC is the next one, the stack pointer of
the mode it starts in is 4 higher, and the rest is as it was (45_stack_return.md R213, decision D18). -/
theorem returnFromInterrupt_spec {s : State} (h : WordReadable s (stackPointer s)) :
    ∃ t, returnFromInterrupt s = .next t ∧ FlagWritten s.flag t.flag (physWord s (stackPointer s)) ∧
      t.pc = physWord s (stackPointer s + 2#16) ∧ cellValue t (stackCell s.flag.p) = stackPointer s + 4#16 ∧
      SameCellsBut [stackCell s.flag.p] s t ∧ SameBytesBut [] s t ∧ SameIo s t ∧ SameRun s t ∧ t.draws = s.draws := by
  refine ⟨_, congrArg finish (trapReturn_eq h), Flag.write_spec _ _, rfl, ?_, fun c hc => ?_, fun a ha => ?_,
    sameIo_setStackPointer s _, ⟨setStackPointer_halted s _, setStackPointer_interrupts s _⟩, setStackPointer_draws s _⟩
  · exact (cellValue_congr rfl rfl rfl rfl _).trans (cellValue_setStackPointer_stackCell s _)
  · exact (cellValue_congr rfl rfl rfl rfl c).trans (sameCells_setStackPointer s _ c hc)
  · exact (physByte_congr rfl rfl a).trans (sameBytes_setStackPointer s _ a ha)

end Sys2Proof.Machine
end

section
/-! CERTIFICATES. The statements about PUSH, POP, RET and RETI. -/

namespace Sys2Proof.Machine

/-- Settles O40: RET is a pop into PC. -/
theorem returnPopsPc : Obligations.ReturnPopsPc := by
  intro s hread
  rw [exec_ret]
  exact return_spec hread

/-- Settles O41: PUSH is a push of the register's value. -/
theorem pushStoresBelowStackPointer : Obligations.PushStoresBelowStackPointer := by
  intro s rd hr hpush
  obtain ⟨t, hexec, ⟨hsp, hcells, hword, hbytes, hflag, hio, hrun, hdraws⟩, hpc⟩ := pushRegister_spec hr hpush
  exact ⟨t, (exec_push rd s).trans hexec, hsp, hcells, hword, hbytes, hflag, hio, hrun, hdraws, hpc⟩

/-- Settles O42: POP leaves FLAG alone where Rd is another register, and writes it by WriteFLAG where it is Rd. -/
theorem popLoadsAndMovesStackPointer : Obligations.PopLoadsAndMovesStackPointer := by
  intro s rd hr hread
  obtain ⟨t, hexec, hsp, hvalue, hflag, hframe⟩ := popRegister_spec hr hread
  refine ⟨t, (exec_pop rd s).trans hexec, hsp, fun hrd => ⟨hvalue hrd, ?_⟩, fun hrd => ?_, hframe⟩
  · rw [hflag, if_neg hrd]
  · rw [hflag, if_pos hrd]
    exact Flag.write_spec _ _

/-- Settles O43: the word POP reads is the one PUSH wrote, and the stack pointer is back where it was. -/
theorem popUndoesPush : Obligations.PopUndoesPush := by
  intro s rd rd' hr hr' hrd' hpush
  obtain ⟨t, hexec, hpushed, hpc⟩ := pushRegister_spec hr hpush
  have htop := hpushed.stackPointer_eq
  have hread := hpushed.top_readable hpush
  have ⟨_, _, hword, _, hflag, _⟩ := hpushed
  obtain ⟨u, hexec', hsp, hvalue, hflag', hcells, -, -, -, -, hpc'⟩ :=
    popRegister_spec ((namesStackPointer_congr hflag rd').trans hr') hread
  have hflagSame : u.flag = s.flag := by rw [hflag', if_neg hrd', hflag]
  refine ⟨t, u, (exec_push rd s).trans hexec, (exec_pop rd' t).trans hexec', ?_, ?_, ?_, ?_, hflagSame⟩
  · rw [hvalue hrd', htop, hword]
  · rw [stackPointer_eq_cell, hflagSame, hpushed.stackCell_restored hsp]
  · rw [hpc', hpc, BitVec.add_assoc]
    rfl
  · exact hflag ▸ hpushed.sameCells_restored hsp hcells

/-- Settles O44: both pops of RETI are from the stack of the mode it starts in. -/
theorem returnFromInterruptPopsFlagAndPc : Obligations.ReturnFromInterruptPopsFlagAndPc := by
  intro s hread
  rw [exec_reti]
  exact returnFromInterrupt_spec hread

end Sys2Proof.Machine
end

section
/-! SUPPORT. Traps and the return from one in the words of the statements: what a trap entry with room for its frame does,
and what RETI restores after it; and which instruction stops the CPU. -/

namespace Sys2Proof.Machine

/-! ### Trap entry -/

/-- A trap entry with room for its frame completes, and does what `TrapTaken` says (60_exceptions.md R245). -/
theorem trapEntry_spec {s : State} (h : CanTrap s) (k : Fin 16) (saved : Word) :
    ∃ t, trapEntry s k saved = .ok t ∧ TrapTaken s t (vectorAddr k) saved ∧ t.interrupts = s.interrupts := by
  obtain ⟨t, ht⟩ := trapEntry_completes h k saved
  exact ⟨t, ht, trapEntry_taken ht⟩

/-- SVC is the trap entry through FFFEh that saves the address after it (46_system.md R220). -/
theorem supervisorCall_spec {s : State} (h : CanTrap s) :
    ∃ t, supervisorCall s = .next t ∧ TrapTaken s t 0xFFFE#16 (s.pc + 2#16) ∧ t.interrupts = s.interrupts := by
  obtain ⟨t, ht, htaken⟩ := trapEntry_spec h svcEntry (nextOne s)
  exact ⟨t, congrArg finish ht, htaken⟩

/-! ### RETI after a trap -/

/-- What a write of FLAG makes of it is settled by what each mode may write (10_state.md R32). -/
theorem FlagWritten.eq_write {f g : Flag} {v : Word} (h : FlagWritten f g v) : g = f.write v := by
  obtain ⟨hu, hv, hc, hs, hz, hpriv, huser⟩ := h
  obtain ⟨e, p, i, u, v', c, s, z⟩ := g
  cases hp : f.p with
  | true =>
    obtain ⟨he, hp', hi⟩ := hpriv hp
    simp_all [Flag.write_privileged, Flag.ofWord]
  | false =>
    obtain ⟨he, hp', hi⟩ := huser hp
    simp_all [Flag.write_user, Flag.ofWord]

/-- In privileged mode a saved FLAG is restored whole, whatever FLAG is at the time (10_state.md R32). -/
theorem FlagWritten.eq_of_toWord {f f' g : Flag} (h : FlagWritten f g f'.toWord) (hp : f.p = true) : g = f' := by
  rw [h.eq_write, Flag.write_privileged hp, Flag.ofWord_toWord]

section
variable {s t u : State} {vec saved : Word}

/-- The handler is privileged. -/
theorem TrapTaken.privileged (h : TrapTaken s t vec saved) : t.flag.p = true := by
  obtain ⟨hflag, -⟩ := h
  rw [hflag]

/-- The stack pointer of the handler points at the saved FLAG. -/
theorem TrapTaken.stackPointer_eq (h : TrapTaken s t vec saved) : stackPointer t = s.ssp - 4#16 := by
  have hp := h.privileged
  obtain ⟨-, hssp, -⟩ := h
  rw [stackPointer, if_pos hp, hssp]

/-- The frame can be read back. -/
theorem TrapTaken.frame_readable (h : TrapTaken s t vec saved) (hroom : CanTrap s) :
    WordReadable t (stackPointer t) := by
  obtain ⟨-, hmmu, heven, -⟩ := hroom
  rw [h.stackPointer_eq]
  obtain ⟨-, -, -, -, -, -, -, ⟨-, hsame, -⟩, -⟩ := h
  exact ⟨hsame.trans hmmu, heven⟩

/-- After a trap, and a pop of its two words, every register cell is as it was. -/
theorem TrapTaken.sameCells_restored (h : TrapTaken s t vec saved) (hssp : u.ssp = t.ssp + 4#16)
    (hcells : SameCellsBut [.ssp] t u) : SameCellsBut [] s u := by
  obtain ⟨-, hframe, hsame, -⟩ := h
  intro c _
  by_cases hc : c = .ssp
  · rw [hc, cellValue_ssp, cellValue_ssp, hssp, hframe, BitVec.sub_add_cancel]
  · have hout : c ∉ [RegCell.ssp] := by simpa using hc
    exact (hcells c hout).trans (hsame c hout)

/-- RETI right after a trap, through any vector, goes to the saved address and restores the whole of FLAG and every register;
only the bytes of the frame can differ (60_exceptions.md R245, R250). -/
theorem TrapTaken.returned (h : TrapTaken s t vec saved) (hroom : CanTrap s) :
    ∃ u, returnFromInterrupt t = .next u ∧ u.pc = saved ∧ u.flag = s.flag ∧ SameCellsBut [] s u ∧
      SameBytesBut [s.ssp - 4#16, s.ssp - 3#16, s.ssp - 2#16, s.ssp - 1#16] s u ∧ SameIo s u ∧ SameRun t u := by
  have hp := h.privileged
  have htop := h.stackPointer_eq
  obtain ⟨u, hexec, hflag, hpc, hssp, hcells, hbytes, hio, hrun, -⟩ :=
    returnFromInterrupt_spec (h.frame_readable hroom)
  have hcell : stackCell t.flag.p = .ssp := by rw [hp]; rfl
  have ⟨_, hframe, _, hsaved, hold, hout, _, hsame, _⟩ := h
  have hnext : s.ssp - 4#16 + 2#16 = s.ssp - 2#16 := by bv_omega
  rw [htop, hold] at hflag
  rw [htop, hnext, hsaved] at hpc
  rw [hcell, htop, ← hframe] at hssp
  rw [hcell] at hcells
  exact ⟨u, hexec, hpc, hflag.eq_of_toWord hp, h.sameCells_restored hssp hcells,
    fun a ha => (hbytes a List.not_mem_nil).trans (hout a ha), hsame.trans hio, hrun⟩

end

/-! ### HALT -/

/-- HALT in privileged mode always completes (46_system.md R221). -/
theorem halt_privileged {s : State} (hp : s.flag.p = true) :
    halt s = .next { s with pc := s.pc + 2#16, halted := true } := by
  simp [halt, hp, nextOne]

/-- An instruction that completes leaves the CPU halted or not as it was, but for HALT in privileged mode. -/
theorem halted_of_exec {s t : State} {i : Instr} (h : exec i s = .next t) :
    t.halted = s.halted ∨ i = .halt ∧ s.flag.p = true := by
  rcases exec_next h with ⟨k, saved, htrap, -⟩ | ⟨hi, hp, -⟩ | ⟨rd, m, u, -, -, -, hw, rfl⟩ | ⟨hhalted, -⟩
  · obtain ⟨⟨-, -, -, -, -, -, -, -, hhalted, -⟩, -⟩ := trapEntry_taken htrap
    exact .inl hhalted
  · exact .inr ⟨hi, hp⟩
  · obtain ⟨hhalted, -⟩ := ioWrite_frame hw
    exact .inl hhalted
  · exact .inl hhalted

end Sys2Proof.Machine
end

section
/-! CERTIFICATES. The statements about SVC, RETI after SVC, and HALT. -/

namespace Sys2Proof.Machine

/-- Settles O45: SVC is a trap entry. -/
theorem supervisorCallTakesTrap : Obligations.SupervisorCallTakesTrap := by
  intro s hroom
  rw [exec_svc]
  exact supervisorCall_spec hroom

/-- Settles O46: SVC saves the address after it and FLAG, and RETI, which starts in privileged mode, restores both. -/
theorem returnUndoesSupervisorCall : Obligations.ReturnUndoesSupervisorCall := by
  intro s hroom
  obtain ⟨t, hexec, htaken, hsupply⟩ := supervisorCall_spec hroom
  obtain ⟨u, hexec', hpc, hflag, hcells, hbytes, hio, hrun⟩ := htaken.returned hroom
  obtain ⟨-, -, -, -, -, -, -, -, hhalted, -⟩ := htaken
  exact ⟨t, u, (exec_svc s).trans hexec, (exec_reti t).trans hexec', hpc, hflag, hcells, hbytes, hio,
    SameRun.trans ⟨hhalted, hsupply⟩ hrun⟩

/-- Settles O59: by what each kind of instruction does to the halted state. -/
theorem onlyPrivilegedHaltStopsCpu : Obligations.OnlyPrivilegedHaltStopsCpu := by
  intro i s t hexec hrunning hstopped
  rcases halted_of_exec hexec with hsame | hhalt
  · rw [hstopped, hrunning] at hsame
    cases hsame
  · exact hhalt

/-- Settles O48: HALT passes its privilege check. -/
theorem haltStopsPrivilegedCpu : Obligations.HaltStopsPrivilegedCpu := by
  intro s hp
  rw [exec_halt, halt_privileged hp]

end Sys2Proof.Machine
end

section
/-! SUPPORT. Privilege over a whole step: a trap taken at a boundary, the vectors by number, all that a step from user mode
can do, and RN4020-RAM between an OUT and an IN. -/

namespace Sys2Proof.Machine

/-! ### The vectors -/

/-- Entry `k` of the vector table is at FFE0h + 2k, without a wrap (20_memory.md R77). -/
theorem vectorAddr_toNat (k : Fin 16) : (vectorAddr k).toNat = 0xFFE0 + 2 * k.val := by
  revert k
  decide

/-- The vector of a privilege violation is any but the last, which is that of SVC (the spec's decision D29, log 27). -/
theorem privVector_range :
    0xFFE0 ≤ (vectorAddr privEntry).toNat ∧ (vectorAddr privEntry).toNat ≤ 0xFFFC := by
  have hslot : privEntry.val < 15 := Config.vecPrivSlot.isLt
  rw [vectorAddr_toNat]
  omega

/-! ### Traps at a boundary and in an instruction -/

/-- Passing a boundary changes the environment's supply only, of which a trap frame holds nothing. -/
theorem trapTaken_passBoundary {s t : State} {vec saved : Word} :
    TrapTaken (passBoundary s) t vec saved ↔ TrapTaken s t vec saved := by
  have hcells : SameCellsBut [.ssp] (passBoundary s) t ↔ SameCellsBut [.ssp] s t :=
    forall₂_congr fun c _ => by rw [cellValue_congr (s := s) (t := passBoundary s) rfl rfl rfl rfl c]
  have hbytes (as : List Word) : SameBytesBut as (passBoundary s) t ↔ SameBytesBut as s t :=
    forall₂_congr fun a _ => by rw [physByte_congr (s := s) (t := passBoundary s) rfl rfl a]
  simp [TrapTaken, SameIo, hcells, hbytes]

/-- The interrupt taken at a boundary, with room for its frame, is the whole of the step (60_exceptions.md R242). -/
theorem step_of_interrupt_spec {s : State} {src : IntSource} (hh : s.halted = false)
    (hi : interruptTaken s = some src) (hroom : CanTrap s) :
    ∃ t, step s = .next t ∧ TrapTaken s t (vectorAddr src.entry) s.pc ∧ t.interrupts = s.interrupts.tail := by
  have ⟨⟨hmmu, _⟩, _⟩ := hroom
  obtain ⟨t, hentry, htaken, hsupply⟩ := trapEntry_spec (s := passBoundary s) hroom src.entry s.pc
  exact ⟨t, (step_of_interrupt hh hmmu hi).trans (congrArg finish hentry), trapTaken_passBoundary.mp htaken, hsupply⟩

/-- A privilege violation with room for its frame saves the instruction's own address (60_exceptions.md R232). -/
theorem privilegeViolation_spec {s : State} (hroom : CanTrap s) :
    ∃ t, privilegeViolation s = .next t ∧ TrapTaken s t (vectorAddr privEntry) s.pc ∧ t.interrupts = s.interrupts := by
  obtain ⟨t, hentry, htaken⟩ := trapEntry_spec hroom privEntry s.pc
  exact ⟨t, congrArg finish hentry, htaken⟩

/-! ### A step from user mode -/

/-- `t` is `s` after a trap of one of the kinds that can be taken in user mode (60_exceptions.md R258). -/
def LeftByTrap (s t : State) : Prop :=
  TrapTaken s t 0xFFFE#16 (s.pc + 2#16) ∨ TrapTaken s t (vectorAddr privEntry) s.pc ∨
    ∃ src : IntSource, s.flag.e = true ∧ TrapTaken s t (vectorAddr src.entry) s.pc

/-- `t` is in user mode, with all that user mode protects as it was in `s` (60_exceptions.md R257). -/
def UserKept (s t : State) : Prop :=
  t.flag.p = false ∧ t.ssp = s.ssp ∧ t.flag.e = s.flag.e ∧ t.flag.i = s.flag.i ∧ t.halted = s.halted ∧
    (s.flag.i = false → SameIo s t)

/-- Every trap is taken to privileged mode (60_exceptions.md R245). -/
theorem LeftByTrap.privileged {s t : State} (h : LeftByTrap s t) : t.flag.p = true := by
  rcases h with hsvc | hpriv | ⟨src, -, hint⟩
  · exact hsvc.privileged
  · exact hpriv.privileged
  · exact hint.privileged

theorem leftByTrap_passBoundary {s t : State} : LeftByTrap (passBoundary s) t ↔ LeftByTrap s t := by
  simp [LeftByTrap, trapTaken_passBoundary]

theorem userKept_passBoundary {s t : State} : UserKept (passBoundary s) t ↔ UserKept s t := Iff.rfl

/-- All an instruction can do in user mode: the trap of SVC or of a privilege violation, or nothing to what user mode
protects. HALT needs P = 1 to stop the CPU, and an OUT that reaches its row in user mode has I = 1. -/
theorem exec_user {s t : State} {i : Instr} (h : exec i s = .next t) (hp : s.flag.p = false) :
    LeftByTrap s t ∨ UserKept s t := by
  rcases exec_next h with ⟨k, saved, htrap, hkind⟩ | ⟨-, hpriv, -⟩ | ⟨rd, m, u, -, hmay, -, hw, rfl⟩ |
    ⟨hhalted, -, hio, -, huser⟩
  · have htaken := (trapEntry_taken htrap).1
    rcases hkind with ⟨-, rfl, rfl⟩ | ⟨rfl, rfl, -⟩
    · exact .inl (.inl htaken)
    · exact .inl (.inr (.inl htaken))
  · simp [hp] at hpriv
  · have hi : s.flag.i = true := by simpa [mayDoIo, hp] using hmay
    obtain ⟨hhalted, -, -, hssp, hflag, -⟩ := ioWrite_frame hw
    exact .inr ⟨(congrArg Flag.p hflag).trans hp, hssp, congrArg Flag.e hflag, congrArg Flag.i hflag, hhalted,
      fun hi' => absurd hi (by simp [hi'])⟩
  · obtain ⟨hssp, he, hi, hp'⟩ := huser hp
    exact .inr ⟨hp', hssp, he, hi, hhalted, fun _ => hio⟩

/-- All a step can do in user mode: a trap, or nothing to what user mode protects. -/
theorem step_user {s t : State} (h : step s = .next t) (hp : s.flag.p = false) : LeftByTrap s t ∨ UserKept s t := by
  obtain ⟨-, -, ⟨src, hint, htrap⟩ | ⟨-, i, -, hexec⟩⟩ := step_next h
  · have htaken := (trapEntry_taken htrap).1
    exact .inl (.inr (.inr ⟨src, (interruptTaken_some hint).1, trapTaken_passBoundary.mp htaken⟩))
  · exact (exec_user hexec hp).imp leftByTrap_passBoundary.mp userKept_passBoundary.mp

/-! ### RN4020-RAM -/

theorem wordLo_toNat (v : Word) : (wordLo v).toNat = v.toNat % 256 := by
  simp [wordLo]

theorem isIoAddress_rn4020Ram : isIoAddress 0x2E#16 = true := by decide

/-- An OUT to 2Eh puts the low byte in RN4020-RAM and takes away no privilege (60_exceptions.md R267). -/
theorem exec_out_rn4020Ram {s : State} (hp : mayDoIo s = true) (rd : Reg) :
    ∃ t, exec (.outDrct rd 0x2E#16) s = .next t ∧ mayDoIo t = true ∧ t.dev.rn4020Ram = wordLo (readReg s rd) := by
  have haccepts : RowAccepts (ioRow 0x2E#16).toNat (readReg s rd) := by
    simp [RowAccepts, ioRow, wordLo]
  exact ⟨_, exec_out_eq (m := .drct 0x2E#16) hp isIoAddress_rn4020Ram haccepts, hp, rfl⟩

/-- An IN from 2Eh answers RN4020-RAM (60_exceptions.md R267). -/
theorem exec_in_rn4020Ram {s : State} {rd : Reg} (hp : mayDoIo s = true) (hrd : rd ≠ .flag) :
    ∃ t, exec (.inDrct rd 0x2E#16) s = .next t ∧ (readReg t rd).toNat = s.dev.rn4020Ram.toNat := by
  obtain ⟨t, hexec, hvalue, -⟩ := exec_in_spec (m := .drct 0x2E#16) hp isIoAddress_rn4020Ram rd
  refine ⟨t, hexec, ?_⟩
  rw [(hvalue hrd).1, ioAnswer_rn4020Ram rfl, BitVec.toNat_setWidth_of_le (by decide)]

end Sys2Proof.Machine
end

section
/-! CERTIFICATES. The statements about user mode, interrupts, privilege violations and RN4020-RAM. -/

namespace Sys2Proof.Machine

/-- Settles O56: of the two things a step from user mode can do, only a trap enters privileged mode. -/
theorem userModeIsLeftOnlyByTrap : Obligations.UserModeIsLeftOnlyByTrap := by
  intro s t hstep hp hp'
  rcases step_user hstep hp with htrap | ⟨huser, -⟩
  · exact htrap
  · simp [hp'] at huser

/-- Settles O57: of the two things a step from user mode can do, a trap does not stay there. -/
theorem userModeKeepsPrivilegedState : Obligations.UserModeKeepsPrivilegedState := by
  intro s t hstep hp hp'
  rcases step_user hstep hp with htrap | ⟨-, hkept⟩
  · simp [htrap.privileged] at hp'
  · exact hkept

/-- Settles O10: the picked source is taken, and the five vectors are entries of the table. -/
theorem stepTakesPickedInterrupt : Obligations.StepTakesPickedInterrupt := by
  intro s b rest src hh he hsupply hpick hmem hroom
  have hint : interruptTaken s = some src := interruptTaken_of_pick he (by simp [hsupply]) hpick hmem
  obtain ⟨t, hstep, htaken, hrest⟩ := step_of_interrupt_spec hh hint hroom
  refine ⟨t, hstep, htaken, by simpa [hsupply] using hrest, ?_, ?_, ?_, ?_, ?_⟩
  all_goals
    rintro rfl
    rfl

/-- Settles O47: each of the instructions is a privilege violation, which is a trap entry. -/
theorem privilegeViolationTakesTrap : Obligations.PrivilegeViolationTakesTrap := by
  intro s i hp hroom hi
  obtain ⟨t, hexec, htaken, hsupply⟩ := privilegeViolation_spec hroom
  obtain ⟨hlow, hhigh⟩ := privVector_range
  exact ⟨t, (exec_of_privilege_violation hp hi).trans hexec, htaken, hsupply, hlow, hhigh, isOdd_vectorAddr privEntry⟩

/-- Settles O53: the OUT stores the low byte, a reset keeps it and is privileged, and an IN answers it. -/
theorem rn4020RamReadsBackAcrossReset : Obligations.Rn4020RamReadsBackAcrossReset := by
  intro s rd rd' hpriv hrd
  obtain ⟨t, hout, hp, hram⟩ := exec_out_rn4020Ram ((mayDoIo_iff s).mpr hpriv) rd
  have hreset : mayDoIo t.resetAgain = true := rfl
  have hkept : t.resetAgain.dev.rn4020Ram = t.dev.rn4020Ram := rfl
  obtain ⟨u, hin, hu⟩ := exec_in_rn4020Ram hp hrd
  obtain ⟨w, hin', hw⟩ := exec_in_rn4020Ram hreset hrd
  refine ⟨t, u, w, hout, hin, hin', ?_, ?_⟩
  · rw [hu, hram, wordLo_toNat]
  · rw [hw, hkept, hram, wordLo_toNat]

end Sys2Proof.Machine
end
